-- ==== Sys2Proof/Word.lean ====
section
/-! DEFINITION. The two widths of the hardware: 32-bit operation and response words (spec/30_encoding.md R71, R73)
and 16-bit Samples (spec/00_scope.md R6 `W`, R10). Their arithmetic is in Machine/Operands.lean. -/

namespace Sys2Proof

/-- An operation word or a response word: 32 bits, bit 0 the least significant (R9, R71, R73). -/
abbrev Word := BitVec 32

/-- A Sample as its 16-bit two's complement pattern (R10); `BitVec.toInt` is its integer in `S16`. -/
abbrev Sample := BitVec 16

end Sys2Proof
end

