-- ==== Sys2Proof/Syntax.lean ====
section
/-! DEFINITION. The thirteen operations of spec/opcode_table.json as syntax (spec/30_encoding.md R72, R78), the
enumerations of their operands, the agents that issue them (spec/00_scope.md R13) and what arrives at the SPC (R70). -/

namespace Sys2Proof

/-- A channel (R12): Left is 0, Right is 1. As the channel state, `left` is AwaitLeft and `right` AwaitRight (R27). -/
inductive Channel where
  | left
  | right
  deriving DecidableEq, Repr

/-- The four ring buffers by their buffer ids 0 to 3 (spec/10_state.md R23). -/
inductive BufId where
  | firL
  | firR
  | dlyL
  | dlyR
  deriving DecidableEq, Repr

/-- The order of a view (R72 `ord`): 0 oldest first, 1 newest first. -/
inductive ViewOrder where
  | oldestFirst
  | newestFirst
  deriving DecidableEq, Repr

/-- The processing mode (spec/10_state.md R30 `MODE`), in the order of its codes 0 to 3. -/
inductive Mode where
  | passthrough
  | fir
  | delay
  | tone
  deriving DecidableEq, Repr

/-- The operations, one constructor per row of spec/opcode_table.json. -/
inductive Instr where
  /-- `NOP` (R210). -/
  | nop
  /-- `SRESET` (R211). -/
  | sreset
  /-- `CFGWR addr, data` (R212, R213). -/
  | cfgwr (addr : Nat) (data : BitVec 16)
  /-- `CFGRD addr` (R214). -/
  | cfgrd (addr : Nat)
  /-- `RB.PUSH buf, s` (R107). -/
  | rbPush (buf : BufId) (x : Sample)
  /-- `RB.VIEW buf, ord, off` (R108). -/
  | rbView (buf : BufId) (ord : ViewOrder) (off : Nat)
  /-- `FIR.STEP ch, s` (R126). -/
  | firStep (ch : Channel) (x : Sample)
  /-- `DLY.STEP ch, s` (R144). -/
  | dlyStep (ch : Channel) (x : Sample)
  /-- `PASS.STEP ch, s` (R161). -/
  | passStep (ch : Channel) (x : Sample)
  /-- `TONE.STEP ch` (R164). -/
  | toneStep (ch : Channel)
  /-- `CH.ADV` (R173). -/
  | chAdv
  /-- `EVT` (R183). -/
  | evt
  /-- `RUN rxr, txr, s` (R185): the transport's answers are operands (R182). -/
  | run (rxr txr : Bool) (x : Sample)
  deriving DecidableEq, Repr

/-- The three agents that act on the SPC (R13). -/
inductive Agent where
  | foreground
  | eventSource
  | handler
  deriving DecidableEq, Repr

/-- Who performs an operation (R13, spec/60_exceptions.md R238). -/
def Instr.agent : Instr → Agent
  | .nop => .foreground
  | .sreset => .foreground
  | .cfgwr _ _ => .foreground
  | .cfgrd _ => .foreground
  | .rbPush _ _ => .foreground
  | .rbView _ _ _ => .foreground
  | .firStep _ _ => .foreground
  | .dlyStep _ _ => .foreground
  | .passStep _ _ => .foreground
  | .toneStep _ => .foreground
  | .chAdv => .foreground
  | .evt => .eventSource
  | .run _ _ _ => .handler

/-- The unit operations, opcodes 0x10, 0x11, 0x20, 0x30, 0x40, 0x41, 0x50 (R76). -/
def Instr.isUnit : Instr → Bool
  | .nop => false
  | .sreset => false
  | .cfgwr _ _ => false
  | .cfgrd _ => false
  | .rbPush _ _ => true
  | .rbView _ _ _ => true
  | .firStep _ _ => true
  | .dlyStep _ _ => true
  | .passStep _ _ => true
  | .toneStep _ => true
  | .chAdv => true
  | .evt => false
  | .run _ _ _ => false

/-- What can be presented to the SPC from outside (R70): an operation word, or the hard reset input. -/
inductive Arrival where
  | word (w : Word)
  | hardReset
  deriving DecidableEq, Repr

/-- One entry of the stream of arrivals: one thing, or two that arrive together (R234). -/
inductive Input where
  | one (a : Arrival)
  | together (a b : Arrival)
  deriving DecidableEq, Repr

end Sys2Proof
end

