-- ==== Sys2Proof/WellFormed.lean ====
section
/-! DEFINITION. Which operations have an encoding: the numeric operands fit the fields of spec/30_encoding.md R72.
Every other operand type has exactly the values its field has. -/

namespace Sys2Proof

/-- A register address fits the 8-bit `addr` field (R72). -/
def addrFits (addr : Nat) : Bool := addr < 2 ^ 8

/-- A view offset fits the 20-bit `off` field (R72). -/
def offFits (off : Nat) : Bool := off < 2 ^ 20

/-- The operation can be written as an operation word (R71, R72). -/
def Instr.wf : Instr → Bool
  | .nop => true
  | .sreset => true
  | .cfgwr addr _ => addrFits addr
  | .cfgrd addr => addrFits addr
  | .rbPush _ _ => true
  | .rbView _ _ off => offFits off
  | .firStep _ _ => true
  | .dlyStep _ _ => true
  | .passStep _ _ => true
  | .toneStep _ => true
  | .chAdv => true
  | .evt => true
  | .run _ _ _ => true

end Sys2Proof
end

