-- ==== Sys2Proof/Decode.lean ====
section
/-! DEFINITION. The decoder, total on 32-bit words (spec/30_encoding.md R71, R72, R78, R79), the names of its
rejections (R75 items 1 and 2), and after it the encoder (R81). -/

namespace Sys2Proof

/-! ## The opcode map (R78) -/

/-- One row of the opcode map: a word `w` selects the row when `w & mask = pattern` (R78). -/
structure OpRow where
  mnemonic : String
  pattern : Word
  mask : Word
  deriving DecidableEq, Repr

/-- A word selects a row (R78). -/
def OpRow.selects (r : OpRow) (w : Word) : Bool := w &&& r.mask == r.pattern

def rowNop : OpRow := ⟨"NOP", 0x00000000, 0xFFFFFFFF⟩
def rowSreset : OpRow := ⟨"SRESET", 0x01000000, 0xFFFFFFFF⟩
def rowCfgwr : OpRow := ⟨"CFGWR", 0x02000000, 0xFF000000⟩
def rowCfgrd : OpRow := ⟨"CFGRD", 0x03000000, 0xFF00FFFF⟩
def rowRbPush : OpRow := ⟨"RB.PUSH", 0x10000000, 0xFF3F0000⟩
def rowRbView : OpRow := ⟨"RB.VIEW", 0x11000000, 0xFF100000⟩
def rowFirStep : OpRow := ⟨"FIR.STEP", 0x20000000, 0xFFFE0000⟩
def rowDlyStep : OpRow := ⟨"DLY.STEP", 0x30000000, 0xFFFE0000⟩
def rowPassStep : OpRow := ⟨"PASS.STEP", 0x40000000, 0xFFFE0000⟩
def rowToneStep : OpRow := ⟨"TONE.STEP", 0x41000000, 0xFFFEFFFF⟩
def rowChAdv : OpRow := ⟨"CH.ADV", 0x50000000, 0xFFFFFFFF⟩
def rowEvt : OpRow := ⟨"EVT", 0x60000000, 0xFFFFFFFF⟩
def rowRun : OpRow := ⟨"RUN", 0x61000000, 0xFFFC0000⟩

/-- The thirteen rows (R78). -/
def opcodeMap : List OpRow :=
  [rowNop, rowSreset, rowCfgwr, rowCfgrd, rowRbPush, rowRbView, rowFirStep, rowDlyStep, rowPassStep, rowToneStep,
    rowChAdv, rowEvt, rowRun]

/-- The row of an operation. -/
def Instr.row : Instr → OpRow
  | .nop => rowNop
  | .sreset => rowSreset
  | .cfgwr _ _ => rowCfgwr
  | .cfgrd _ => rowCfgrd
  | .rbPush _ _ => rowRbPush
  | .rbView _ _ _ => rowRbView
  | .firStep _ _ => rowFirStep
  | .dlyStep _ _ => rowDlyStep
  | .passStep _ _ => rowPassStep
  | .toneStep _ => rowToneStep
  | .chAdv => rowChAdv
  | .evt => rowEvt
  | .run _ _ _ => rowRun

/-! ## Fields (R72) -/

/-- `opcode`, bits 31:24 (R71). -/
def opcodeField (w : Word) : BitVec 8 := w.extractLsb' 24 8

/-- `addr`, bits 23:16, unsigned. -/
def addrField (w : Word) : Nat := (w.extractLsb' 16 8).toNat

/-- `data`, bits 15:0, a bit pattern; also `imm16`, whose Sample is `wrap16(imm16)`: the same pattern (R80). -/
def dataField (w : Word) : BitVec 16 := w.extractLsb' 0 16

/-- `off`, bits 19:0, unsigned, zero-extended. -/
def offField (w : Word) : Nat := (w.extractLsb' 0 20).toNat

/-- A buffer from its id (R23). -/
def BufId.ofBits (v : BitVec 2) : BufId :=
  if v = 0 then .firL else if v = 1 then .firR else if v = 2 then .dlyL else .dlyR

/-- `buf`, bits 23:22. -/
def bufField (w : Word) : BufId := BufId.ofBits (w.extractLsb' 22 2)

/-- `ord`, bit 21: 0 oldest first, 1 newest first. -/
def ordField (w : Word) : ViewOrder := if w.getLsbD 21 then .newestFirst else .oldestFirst

/-- `ch`, bit 16: 0 Left, 1 Right (R12). -/
def chField (w : Word) : Channel := if w.getLsbD 16 then .right else .left

/-- `rxr`, bit 17: 1 means the read was answered with a Sample. -/
def rxrField (w : Word) : Bool := w.getLsbD 17

/-- `txr`, bit 16: 1 means the write was answered `ok`. -/
def txrField (w : Word) : Bool := w.getLsbD 16

/-! ## Decoding (R79) -/

/-- Why a word is no operation (R75 items 1 and 2). -/
inductive Illegal where
  /-- Item 1: the opcode is not one of the thirteen. -/
  | unassignedOpcode
  /-- Item 2: a reserved bit of the operation's format is 1, `data ≠ 0` in `CFGRD`, or `imm16 ≠ 0` in `TONE.STEP`. -/
  | reservedBitSet
  deriving DecidableEq, Repr

/-- The name of the rejection of a word that selects no row (R75). -/
def illegalReason (w : Word) : Illegal :=
  if opcodeMap.any (fun r => opcodeField w == opcodeField r.pattern) then .reservedBitSet else .unassignedOpcode

/-- What a word of each row means: the operation with its fields (R71, R72). -/
def decoders : List (OpRow × (Word → Instr)) :=
  [(rowNop, fun _ => .nop),
    (rowSreset, fun _ => .sreset),
    (rowCfgwr, fun w => .cfgwr (addrField w) (dataField w)),
    (rowCfgrd, fun w => .cfgrd (addrField w)),
    (rowRbPush, fun w => .rbPush (bufField w) (dataField w)),
    (rowRbView, fun w => .rbView (bufField w) (ordField w) (offField w)),
    (rowFirStep, fun w => .firStep (chField w) (dataField w)),
    (rowDlyStep, fun w => .dlyStep (chField w) (dataField w)),
    (rowPassStep, fun w => .passStep (chField w) (dataField w)),
    (rowToneStep, fun w => .toneStep (chField w)),
    (rowChAdv, fun _ => .chAdv),
    (rowEvt, fun _ => .evt),
    (rowRun, fun w => .run (rxrField w) (txrField w) (dataField w))]

/-- The decoder (R78, R79): the operation of the row the word selects, or the reason why it selects none. -/
def decode (w : Word) : Except Illegal Instr :=
  match decoders.find? (fun d => d.1.selects w) with
  | some d => .ok (d.2 w)
  | none => .error (illegalReason w)

/-- The decoder on a row of spec/opcode_table.json: every operation is one 32-bit word (R71), so a longer pattern is
none, and bits above `nbits` are 0. -/
def decodeTableWord (nbits w : Nat) : Option Instr :=
  if w % 2 ^ nbits < 2 ^ 32 then (decode (BitVec.ofNat 32 (w % 2 ^ nbits))).toOption else none

/-! ## Encoding (R81) -/

/-- The buffer id of a buffer (R23). -/
def BufId.bits : BufId → BitVec 32
  | .firL => 0
  | .firR => 1
  | .dlyL => 2
  | .dlyR => 3

/-- `ord` of a view order (R72). -/
def ViewOrder.bits : ViewOrder → BitVec 32
  | .oldestFirst => 0
  | .newestFirst => 1

/-- The number of a channel (R12). -/
def Channel.bits : Channel → BitVec 32
  | .left => 0
  | .right => 1

/-- A one-bit operand (R72). -/
def flagBits (b : Bool) : BitVec 32 := if b then 1 else 0

/-- The operation word of an operation: the "word" column of R81. -/
def encode : Instr → Word
  | .nop => 0x00000000
  | .sreset => 0x01000000
  | .cfgwr addr data => 0x02000000 ||| BitVec.ofNat 32 addr <<< 16 ||| data.setWidth 32
  | .cfgrd addr => 0x03000000 ||| BitVec.ofNat 32 addr <<< 16
  | .rbPush buf x => 0x10000000 ||| buf.bits <<< 22 ||| x.setWidth 32
  | .rbView buf ord off => 0x11000000 ||| buf.bits <<< 22 ||| ord.bits <<< 21 ||| BitVec.ofNat 32 off
  | .firStep ch x => 0x20000000 ||| ch.bits <<< 16 ||| x.setWidth 32
  | .dlyStep ch x => 0x30000000 ||| ch.bits <<< 16 ||| x.setWidth 32
  | .passStep ch x => 0x40000000 ||| ch.bits <<< 16 ||| x.setWidth 32
  | .toneStep ch => 0x41000000 ||| ch.bits <<< 16
  | .chAdv => 0x50000000
  | .evt => 0x60000000
  | .run rxr txr x => 0x61000000 ||| flagBits rxr <<< 17 ||| flagBits txr <<< 16 ||| x.setWidth 32

end Sys2Proof
end

