-- ==== Sys2Proof/Config.lean ====
section
/-! DEFINITION. What one build of the SPC fixes: the construction-time parameter tuple of spec/00_scope.md R6 with
its validity check (R7), the tuple T0 of spec/95_test_vectors.md, and the one free value of the model. -/

namespace Sys2Proof

/-- The construction-time parameter tuple (R6). Every legal range is a check of `Params.valid`, not of the type. -/
structure Params where
  /-- `N_TAPS`: coefficient count and capacity of each FIR ring buffer. -/
  nTaps : Nat
  /-- `COEF[0..N_TAPS-1]`, index 0 first (R25). -/
  coef : List Sample
  /-- `FS`, the sampling frequency in Hz; it enters no operation (R8). -/
  fs : Nat
  /-- `D`, the capacity of each delay ring buffer. -/
  d : Nat
  /-- `ATT_NUM`. -/
  attNum : Nat
  /-- `ATT_SHIFT`. -/
  attShift : Nat
  /-- `TONE_LEN`. -/
  toneLen : Nat
  /-- `TONE[0..TONE_LEN-1]`, index 0 first (R26). -/
  tone : List Sample
  /-- `LINE_RX`, the line id of `try_read`. -/
  lineRx : Nat
  /-- `LINE_TX`, the line id of `try_write`. -/
  lineTx : Nat
  deriving DecidableEq, Repr

/-- The upper bound 2^20 of the three capacities (R6, decision D9). -/
def maxCells : Nat := 2 ^ 20

namespace Params

/-- `N_TAPS` is legal and as many coefficients are supplied as it says (R6, R7, R130). -/
def tapsOk (p : Params) : Bool := 1 ≤ p.nTaps && p.nTaps ≤ maxCells && p.coef.length == p.nTaps

/-- `FS` is a multiple of 4000 in 8000..48000 (R6, R7; spec/90_conflicts.md C10: 44000 is valid). -/
def fsOk (p : Params) : Bool := p.fs % 4000 == 0 && 8000 ≤ p.fs && p.fs ≤ 48000

/-- `D` is legal (R6). -/
def delayOk (p : Params) : Bool := 1 ≤ p.d && p.d ≤ maxCells

/-- The attenuation is a legal fraction below one (R6). -/
def attOk (p : Params) : Bool :=
  1 ≤ p.attShift && p.attShift ≤ 15 && 1 ≤ p.attNum && p.attNum < 2 ^ p.attShift

/-- `TONE_LEN` is legal and the table has that length (R6). -/
def toneOk (p : Params) : Bool := 1 ≤ p.toneLen && p.toneLen ≤ maxCells && p.tone.length == p.toneLen

/-- Both line ids are in 0..255 (R6). -/
def linesOk (p : Params) : Bool := p.lineRx ≤ 255 && p.lineTx ≤ 255

/-- The tuple is valid (R7): the SPC exists only for valid tuples. -/
def valid (p : Params) : Bool :=
  p.tapsOk && p.fsOk && p.delayOk && p.attOk && p.toneOk && p.linesOk

/-- The tuple T0 of spec/95_test_vectors.md. DESIGN CHOICE (log 2): the tuple that `State.reset` carries. -/
def t0 : Params where
  nTaps := 3
  coef := [8192, 16384, 8192]
  fs := 48000
  d := 3
  attNum := 3
  attShift := 3
  toneLen := 8
  tone := [0, 23170, 32767, 23170, 0, -23170, -32768, -23170]
  lineRx := 0
  lineTx := 0

end Params

/-- FREE VALUE (log 4): of two arrivals at one instant, whether the first-listed is executed first, for the n-th such
pair. spec/60_exceptions.md R234: "executed one after the other in either order, and a model must admit both". -/
opaque Config.firstListedFirst : Nat → Bool

end Sys2Proof
end

