-- ==== Sys2Proof/Machine/State.lean ====
section
/-! DEFINITION. The state of the machine as plain data (spec/10_state.md R22 to R39), its reset value (R38), and the
reasons a step can stop. -/

namespace Sys2Proof.Machine

/-- The cells of one slot memory by slot number, in one canonical form: slot numbers strictly rising, no cell equal
to what an unlisted slot holds (`Memory.wf`, `Memory.unlisted` in Machine/Memory.lean). A cell is one 16-bit Sample,
the smallest unit of every storage of the SPC (spec/20_memory.md R52, R53). -/
abbrev Memory := List (Nat × Sample)

/-- A ring buffer (R22). Its capacity is a parameter (R23). -/
structure RingBuffer where
  /-- `slot[0..N-1]`. -/
  slot : Memory
  /-- `cur`, the write cursor: the slot the next insertion overwrites. -/
  cur : Nat
  /-- `fill`, insertions since reset, counted up to the capacity and no further. -/
  fill : Nat
  deriving DecidableEq, Repr

/-- A ring buffer after reset (R38): all slots 0, cursor 0, nothing inserted. -/
def RingBuffer.empty : RingBuffer := ⟨[], 0, 0⟩

/-- One value per channel (decision D5). -/
structure Stereo (α : Type) where
  left : α
  right : α
  deriving DecidableEq, Repr

/-- The value of a channel. -/
def Stereo.get {α : Type} (v : Stereo α) : Channel → α
  | .left => v.left
  | .right => v.right

/-- The value of one channel replaced. -/
def Stereo.set {α : Type} (v : Stereo α) (c : Channel) (a : α) : Stereo α :=
  match c with
  | .left => { v with left := a }
  | .right => { v with right := a }

/-- A transport event of the output trace (spec/45_handler.md R181). -/
inductive TransportEvent where
  /-- `T_READ(line, c)`: the request `try_read(line)`. -/
  | read (line : Nat) (c : Channel)
  /-- `T_WRITE(line, c, y)`: the request `try_write(line, y)`. -/
  | write (line : Nat) (c : Channel) (y : Sample)
  /-- `T_CLEAR`: `clear_event()`. -/
  | clear
  deriving DecidableEq, Repr

/-- The machine: the parameter tuple it is built for, the state of R38, and its interfaces (R70) as data. -/
structure State where
  /-- The parameter tuple (R6); no step changes it. Log 1. -/
  params : Params
  /-- `fir[0]`, `fir[1]` (R23). -/
  fir : Stereo RingBuffer
  /-- `dly[0]`, `dly[1]` (R23). -/
  dly : Stereo RingBuffer
  /-- `tone_idx[0]`, `tone_idx[1]` (R26). -/
  toneIdx : Stereo Nat
  /-- `ch_state` (R27): `left` is AwaitLeft, `right` AwaitRight. -/
  chState : Channel
  /-- `busy` (R28): an invocation is open. -/
  busy : Bool
  /-- `CTRL.EN` (R30): armed. -/
  en : Bool
  /-- `CTRL.MODE` (R30). -/
  mode : Mode
  /-- Sticky flag `ILLOP` (R35). -/
  illop : Bool
  /-- Sticky flag `LOCKED` (R35). -/
  locked : Bool
  /-- `CNT_TXDROP` (R32). -/
  cntTxdrop : BitVec 16
  /-- `CNT_OVERRUN` (R33). -/
  cntOverrun : BitVec 16
  /-- `CNT_RXMISS` (R34). -/
  cntRxmiss : BitVec 16
  /-- The output trace of transport events, oldest first, only appended to (R181). Log 3. -/
  trace : List TransportEvent
  /-- The response words given, oldest first, one per operation word (R73). Log 3. -/
  responses : List Word
  /-- What is still to be presented to the SPC, the next first (R70). Log 3. -/
  input : List Input
  /-- How many pairs of simultaneous arrivals have been ordered (R234): the index of the next free choice. Log 4. -/
  ordered : Nat
  /-- The transport's event state is unknown: a reset fell into an open invocation (R261). Log 5. -/
  transportUnknown : Bool
  deriving DecidableEq, Repr

/-- The machine of a parameter tuple right after reset (R38, R260), with an empty trace and nothing presented yet. -/
def State.resetOf (p : Params) : State where
  params := p
  fir := ⟨.empty, .empty⟩
  dly := ⟨.empty, .empty⟩
  toneIdx := ⟨0, 0⟩
  chState := .left
  busy := false
  en := false
  mode := .passthrough
  illop := false
  locked := false
  cntTxdrop := 0
  cntOverrun := 0
  cntRxmiss := 0
  trace := []
  responses := []
  input := []
  ordered := 0
  transportUnknown := false

/-- The machine right after reset, built for the tuple T0 (log 2). -/
def State.reset : State := .resetOf .t0

/-- The faults of the machine: none. "The SPC raises no exception, takes no trap and never halts" (R230); nothing in
it is stuck (spec/93_implementation_defined.md section 2). That there is none is safe: every step has a next state. -/
inductive Fault where
  deriving DecidableEq, Repr

/-- Why the model gives a step no meaning. -/
inductive Refusal where
  /-- Raised by `exec` on an operation that has no meaning yet; none is left. Safe: the model stops. -/
  | notModelled (mnemonic : String)
  /-- Raised by `step` on a machine whose parameter tuple is invalid: "the SPC exists only for valid tuples; a model
  ... gives no meaning to an invalid one" (R7, R231 class a). Safe: no such machine exists. -/
  | invalidParameters
  deriving DecidableEq, Repr

end Sys2Proof.Machine
end

