-- ==== Sys2Proof/Machine/Memory.lean ====
section
/-! DEFINITION. The slot access primitives `MemRead` and `MemWrite` (spec/20_memory.md R52) on the canonical form of a
slot memory, and the reads of the two read-only tables (spec/10_state.md R25, R26). -/

namespace Sys2Proof.Machine

/-- What a slot that is not listed holds: 0, the reset contents of every slot (R38). -/
def Memory.unlisted : Sample := 0

/-- `MemRead(B, i)` (R52). -/
def Memory.read : Memory → Nat → Sample
  | [], _ => Memory.unlisted
  | (k, x) :: m, i => if k = i then x else Memory.read m i

/-- `MemWrite(B, i, v)` (R52): slot `i` holds `v`, no other slot changes. -/
def Memory.write : Memory → Nat → Sample → Memory
  | [], i, v => if v = Memory.unlisted then [] else [(i, v)]
  | (k, x) :: m, i, v =>
    if i < k then (if v = Memory.unlisted then (k, x) :: m else (i, v) :: (k, x) :: m)
    else if i = k then (if v = Memory.unlisted then m else (i, v) :: m)
    else (k, x) :: Memory.write m i v

/-- Every listed slot number is above `i`. -/
def Memory.above (m : Memory) (i : Nat) : Bool := m.all fun c => i < c.1

/-- Every listed slot number is below `n`. -/
def Memory.below (m : Memory) (n : Nat) : Bool := m.all fun c => c.1 < n

/-- The canonical form: slot numbers strictly rising, no cell equal to what an unlisted slot holds. -/
def Memory.wf : Memory → Bool
  | [] => true
  | (k, x) :: m => x != Memory.unlisted && Memory.above m k && Memory.wf m

/-- `MemRead(COEF, k)` and `MemRead(TONE, k)`: a read of a read-only table (R25, R26, R52). Every index an operation
forms is in range of a valid tuple's table. -/
def tableRead (t : List Sample) (k : Nat) : Sample := t.getD k 0

end Sys2Proof.Machine
end

