-- ==== Sys2Proof/Machine/Operands.lean ====
section
/-! DEFINITION. The value functions of spec/00_scope.md R10, and what the operands of an operation name: a channel's
engine state, a ring buffer and its capacity (spec/10_state.md R23), a register (spec/46_host.md R215). -/

namespace Sys2Proof.Machine

/-! ## Value functions (R10) -/

/-- `u16(v) = v mod 65536`, the 16-bit pattern of an integer. -/
def u16 (v : Int) : BitVec 16 := BitVec.ofInt 16 v

/-- `wrap16(v)`: the Sample congruent to `v` modulo 65536. -/
def wrap16 (v : Int) : Sample := BitVec.ofInt 16 v

/-- `sext32(v)`: the integer a Sample stands for, at "doubled precision". -/
def sext32 (v : Sample) : Int := v.toInt

/-- `v >>a n = floor(v / 2^n)`, the arithmetic right shift. -/
def sar (v : Int) (n : Nat) : Int := v / 2 ^ n

/-- `x mod N`, the remainder in `0..N-1`, also of a negative `x`. -/
def modN (x : Int) (n : Nat) : Nat := (x % (n : Int)).toNat

/-- `sat_inc(v)`, the 16-bit saturating increment. -/
def satInc (v : BitVec 16) : BitVec 16 := if v = 65535 then v else v + 1

/-- `zext_16` of a bit pattern. -/
def zext16 {n : Nat} (v : BitVec n) : BitVec 16 := v.setWidth 16

/-- The number in [-1, 1) that a Sample represents: `v / 32768`. -/
def sampleValue (v : Sample) : Rat := (v.toInt : Rat) / 32768

/-- `q15(r)`, the Sample `floor(r * 32768)`, of a rational `r` in [-1, 1). No operation uses it. -/
def q15 (r : Rat) : Sample := BitVec.ofInt 16 (r * 32768).floor

/-! ## Channels (R12, R171) -/

/-- The channel after one toggle: `1 - ch_state`. -/
def nextChannel : Channel → Channel
  | .left => .right
  | .right => .left

/-- The channel state as a bit: 0 AwaitLeft, 1 AwaitRight. -/
def channelBit : Channel → BitVec 1
  | .left => 0
  | .right => 1

/-! ## Ring buffers by id (R23, R72 `buf`) -/

/-- `capacity(buf)`: `N_TAPS` for the FIR buffers, `D` for the delay buffers. -/
def capacity (p : Params) : BufId → Nat
  | .firL => p.nTaps
  | .firR => p.nTaps
  | .dlyL => p.d
  | .dlyR => p.d

/-- `buffer(buf)`. -/
def State.buffer (s : State) : BufId → RingBuffer
  | .firL => s.fir.left
  | .firR => s.fir.right
  | .dlyL => s.dly.left
  | .dlyR => s.dly.right

/-- One ring buffer replaced. -/
def State.setBuffer (s : State) (buf : BufId) (b : RingBuffer) : State :=
  match buf with
  | .firL => { s with fir := s.fir.set .left b }
  | .firR => { s with fir := s.fir.set .right b }
  | .dlyL => { s with dly := s.dly.set .left b }
  | .dlyR => { s with dly := s.dly.set .right b }

/-! ## Registers (R29 to R34, R215) -/

/-- The code of a mode (R30). -/
def modeBits : Mode → BitVec 2
  | .passthrough => 0
  | .fir => 1
  | .delay => 2
  | .tone => 3

/-- The mode of a code (R30): all four are legal. -/
def modeOfBits (v : BitVec 2) : Mode :=
  if v = 0 then .passthrough else if v = 1 then .fir else if v = 2 then .delay else .tone

/-- `CTRL` as read: bit 0 `EN`, bits 2:1 `MODE`, bits 15:3 zero (R30, R215). -/
def State.ctrlValue (s : State) : BitVec 16 := zext16 (modeBits s.mode ++ BitVec.ofBool s.en)

/-- `STATUS` as read: bit 0 `CH`, bit 1 `BUSY`, bit 2 `ILLOP`, bit 3 `LOCKED`, bits 15:4 zero (R31, R215). -/
def State.statusValue (s : State) : BitVec 16 :=
  zext16 (BitVec.ofBool s.locked ++ BitVec.ofBool s.illop ++ BitVec.ofBool s.busy ++ channelBit s.chState)

/-- `REG[addr]` (R215), none at the unmapped addresses (R216). -/
def State.reg (s : State) (addr : Nat) : Option (BitVec 16) :=
  if addr = 0 then some s.ctrlValue
  else if addr = 1 then some s.statusValue
  else if addr = 2 then some s.cntTxdrop
  else if addr = 3 then some s.cntOverrun
  else if addr = 4 then some s.cntRxmiss
  else none

end Sys2Proof.Machine
end

