-- ==== Sys2Proof/Machine/Flags.lean ====
section
/-! DEFINITION. The sticky flags (spec/10_state.md R35), the response word (spec/30_encoding.md R73), rejection (R74)
and the lock of the unit operations (R76). No operation's result depends on a flag. -/

namespace Sys2Proof.Machine

/-- The two sticky flags (R35). -/
inductive StickyFlag where
  | illop
  | locked
  deriving DecidableEq, Repr

/-- A sticky flag becomes 1. -/
def State.setSticky (s : State) : StickyFlag → State
  | .illop => { s with illop := true }
  | .locked => { s with locked := true }

/-- The response word (R73): `ok` in bit 31, zeros in 30:17, `flag` in bit 16, `data` in 15:0. -/
def responseWord (ok flag : Bool) (data : BitVec 16) : Word :=
  (BitVec.ofBool ok).setWidth 32 <<< 31 ||| (BitVec.ofBool flag).setWidth 32 <<< 16 ||| data.setWidth 32

/-- The SPC gives one response word. -/
def State.answer (s : State) (w : Word) : State := { s with responses := s.responses ++ [w] }

/-- `respond(flag, data)` (R11, R73): `ok = 1`. -/
def State.respond (s : State) (flag : Bool) (data : BitVec 16) : State := s.answer (responseWord true flag data)

/-- `reject(F)` (R74): only the sticky flag changes, nothing is emitted, the response word is 0. -/
def State.reject (s : State) (f : StickyFlag) : State := (s.setSticky f).answer 0

/-- The foreground is shut out of the pipeline state while armed or busy (R76). -/
def State.lockedOut (s : State) : Bool := s.en || s.busy

/-- A unit operation: `reject(LOCKED)` while armed or busy, else its own effect (R76, R77). -/
def unitOp (s : State) (effect : State → State) : Host.Outcome State Fault Refusal :=
  .next (if s.lockedOut then s.reject .locked else effect s)

end Sys2Proof.Machine
end

