-- ==== Sys2Proof/Machine/Ops.lean ====
section
/-! DEFINITION. The shared operations: the ring buffer primitives (spec/40_ring_buffer.md R102 to R105), the four
engines (spec/41_fir.md, 42_delay.md, 43_pass_tone.md; selection in spec/45_handler.md R184), the channel state
machine (spec/44_channel.md R171), event entry and return (spec/60_exceptions.md R235, R236) and reset (R260). -/

namespace Sys2Proof.Machine

/-! ## Ring buffer primitives -/

/-- `rb_push(B, v)` for capacity `n` (R102): the buffer after, and the pair (valid, evicted) of R103. -/
def rbPush (n : Nat) (b : RingBuffer) (v : Sample) : RingBuffer × Bool × Sample :=
  let old := b.slot.read b.cur
  let hadFull := b.fill == n
  ({ slot := b.slot.write b.cur v, cur := (b.cur + 1) % n, fill := min n (b.fill + 1) },
    hadFull, if hadFull then old else 0)

/-- `rb_view_o(B, i)`, the view oldest first (R104): slot `(cur + i) mod N`. -/
def rbViewO (n : Nat) (b : RingBuffer) (i : Nat) : Sample := b.slot.read ((b.cur + i) % n)

/-- `rb_view_n(B, k)`, the view newest first (R105): slot `(cur - 1 - k) mod N`. -/
def rbViewN (n : Nat) (b : RingBuffer) (k : Nat) : Sample :=
  b.slot.read (modN ((b.cur : Int) - 1 - (k : Int)) n)

/-! ## FIR engine -/

/-- `q15mul(a, b) = (sext32(a) * sext32(b)) >>a 15`, at full width (R120). -/
def q15mul (a b : Sample) : Int := sar (sext32 a * sext32 b) 15

/-- The accumulator after the terms `k = 0 .. m-1` of the loop of R122. -/
def firAcc (p : Params) (b : RingBuffer) : Nat → Int
  | 0 => 0
  | k + 1 => firAcc p b k + q15mul (tableRead p.coef k) (rbViewN p.nTaps b k)

/-- `fir_step` on one channel's buffer (R122): push first, then the sum; the buffer after and the output. -/
def firEngine (p : Params) (b : RingBuffer) (x : Sample) : RingBuffer × Sample :=
  let b' := (rbPush p.nTaps b x).1
  (b', wrap16 (firAcc p b' p.nTaps))

/-- `fir_step(c, x)` (R122). -/
def State.firStep (s : State) (c : Channel) (x : Sample) : State × Sample :=
  let r := firEngine s.params (s.fir.get c) x
  ({ s with fir := s.fir.set c r.1 }, r.2)

/-! ## Delay engine -/

/-- `att(v) = (ATT_NUM * sext32(v)) >>a ATT_SHIFT` (R140). -/
def att (p : Params) (v : Sample) : Int := sar ((p.attNum : Int) * sext32 v) p.attShift

/-- `dly_step` on one channel's buffer (R141): read the oldest, then push the output. -/
def dlyEngine (p : Params) (b : RingBuffer) (x : Sample) : RingBuffer × Sample :=
  let old := rbViewO p.d b 0
  let y := wrap16 (sext32 x + att p old)
  ((rbPush p.d b y).1, y)

/-- `dly_step(c, x)` (R141). -/
def State.dlyStep (s : State) (c : Channel) (x : Sample) : State × Sample :=
  let r := dlyEngine s.params (s.dly.get c) x
  ({ s with dly := s.dly.set c r.1 }, r.2)

/-! ## Minimal engines -/

/-- `pass_step(c, x) = x` (R160). -/
def State.passStep (s : State) (_c : Channel) (x : Sample) : State × Sample := (s, x)

/-- `tone_step(c)` (R163). -/
def State.toneStep (s : State) (c : Channel) : State × Sample :=
  let i := s.toneIdx.get c
  ({ s with toneIdx := s.toneIdx.set c ((i + 1) % s.params.toneLen) }, tableRead s.params.tone i)

/-- `engine(m, c, x)` (R184). -/
def State.engine (s : State) (m : Mode) (c : Channel) (x : Sample) : State × Sample :=
  match m with
  | .passthrough => s.passStep c x
  | .fir => s.firStep c x
  | .delay => s.dlyStep c x
  | .tone => s.toneStep c

/-! ## Channel state machine -/

/-- `ch_advance()` (R171). -/
def State.chAdvance (s : State) : State := { s with chState := nextChannel s.chState }

/-! ## Transport events and counters -/

/-- `emit E` (R181). -/
def State.emit (s : State) (e : TransportEvent) : State := { s with trace := s.trace ++ [e] }

/-- One more frame dropped because the output side was not ready (R32, R188). -/
def State.countTxdrop (s : State) : State := { s with cntTxdrop := satInc s.cntTxdrop }

/-- One more event that arrived during an open invocation (R33, R183). -/
def State.countOverrun (s : State) : State := { s with cntOverrun := satInc s.cntOverrun }

/-- One more invocation whose read found no Sample (R34, R187). -/
def State.countRxmiss (s : State) : State := { s with cntRxmiss := satInc s.cntRxmiss }

/-! ## Event entry and return: this hardware's exception mechanism -/

/-- Entry (R235): accepting an event sets `busy` and does nothing else; nothing is saved. -/
def State.acceptEvent (s : State) : State := { s with busy := true }

/-- Return (R236): the event is cleared and `busy` falls; nothing is restored. -/
def State.endInvocation (s : State) : State := { s.emit .clear with busy := false }

/-! ## The handler body -/

/-- The read and the processing of one invocation (R185): an engine step on the Sample read, or silence and a count
when the read was not ready (R187). -/
def State.process (s : State) (rxr : Bool) (x : Sample) : State × Sample :=
  if rxr then s.engine s.mode s.chState x else (s.countRxmiss, 0)

/-- The write of one invocation (R185, R188): the Sample offered, and a count when it was not taken. -/
def State.transportWrite (s : State) (c : Channel) (y : Sample) (txr : Bool) : State :=
  let s' := s.emit (.write s.params.lineTx c y)
  if txr then s' else s'.countTxdrop

/-- The handler body of an open invocation: read, process, write, advance, acknowledge, answer (R185, R186). -/
def State.handlerBody (s : State) (rxr txr : Bool) (x : Sample) : State :=
  let c := s.chState
  let r := (s.emit (.read s.params.lineRx c)).process rxr x
  (((r.1.transportWrite c r.2 txr).chAdvance).endInvocation).respond txr r.2

/-! ## Control register and reset -/

/-- `write_ctrl(data)` (R213): the test uses `EN` as it was before the write. -/
def State.writeCtrl (s : State) (data : BitVec 16) : State :=
  let m := modeOfBits (data.extractLsb' 1 2)
  let s' := if s.en then (if m = s.mode then s else s.setSticky .locked) else { s with mode := m }
  { s' with en := data.getLsbD 0 }

/-- Reset (R260): every piece of state of R38 takes its reset value. What was emitted and answered stays (R38), the
stream of arrivals is the environment's, and a reset of an open invocation leaves the transport unknown (R261). -/
def State.resetMachine (s : State) : State :=
  { State.resetOf s.params with
    trace := s.trace
    responses := s.responses
    input := s.input
    ordered := s.ordered
    transportUnknown := s.transportUnknown || s.busy }

end Sys2Proof.Machine
end

