-- ==== Sys2Proof/Machine/ChannelOps.lean ====
section
/-! DEFINITION. The channel state machine's unit operation CH.ADV (spec/44_channel.md R173). -/

namespace Sys2Proof.Machine

/-- The effect of `CH.ADV`: toggle, and answer the new channel state. -/
def State.advanceOp (s : State) : State := s.chAdvance.respond false (zext16 (channelBit s.chAdvance.chState))

/-- `CH.ADV` (R173). -/
def execChAdv (s : State) : Host.Outcome State Fault Refusal :=
  unitOp s fun s => s.advanceOp

end Sys2Proof.Machine
end

