-- ==== Sys2Proof/Machine/EngineOps.lean ====
section
/-! DEFINITION. The engines' unit operations FIR.STEP, DLY.STEP, PASS.STEP, TONE.STEP (spec/41_fir.md R126,
spec/42_delay.md R144, spec/43_pass_tone.md R161, R164). None depends on `CTRL.MODE` or touches `ch_state`. -/

namespace Sys2Proof.Machine

/-- An engine step from the command port answers its output Sample (R73). -/
def respondOutput (r : State × Sample) : State := r.1.respond false r.2

/-- `FIR.STEP ch, s` (R126). -/
def execFirStep (ch : Channel) (x : Sample) (s : State) : Host.Outcome State Fault Refusal :=
  unitOp s fun s => respondOutput (s.firStep ch x)

/-- `DLY.STEP ch, s` (R144). -/
def execDlyStep (ch : Channel) (x : Sample) (s : State) : Host.Outcome State Fault Refusal :=
  unitOp s fun s => respondOutput (s.dlyStep ch x)

/-- `PASS.STEP ch, s` (R161). -/
def execPassStep (ch : Channel) (x : Sample) (s : State) : Host.Outcome State Fault Refusal :=
  unitOp s fun s => respondOutput (s.passStep ch x)

/-- `TONE.STEP ch` (R164). -/
def execToneStep (ch : Channel) (s : State) : Host.Outcome State Fault Refusal :=
  unitOp s fun s => respondOutput (s.toneStep ch)

end Sys2Proof.Machine
end

