-- ==== Sys2Proof/Machine/HandlerOps.lean ====
section
/-! DEFINITION. The environment actions EVT and RUN (spec/45_handler.md R183, R185, R190). Neither is ever locked. -/

namespace Sys2Proof.Machine

/-- `EVT` (R183): masked while disarmed, counted and dropped during an open invocation, else it opens one. -/
def execEvt (s : State) : Host.Outcome State Fault Refusal :=
  .next (if s.en then (if s.busy then s.countOverrun.respond false 0 else s.acceptEvent.respond true 0)
    else s.respond false 0)

/-- `RUN rxr, txr, s` (R185): the handler body; with no open invocation no state changes and the answer is 0 (R190). -/
def execRun (rxr txr : Bool) (x : Sample) (s : State) : Host.Outcome State Fault Refusal :=
  .next (if s.busy then s.handlerBody rxr txr x else s.answer 0)

end Sys2Proof.Machine
end

