-- ==== Sys2Proof/Machine/HostOps.lean ====
section
/-! DEFINITION. The host operations NOP, SRESET, CFGWR, CFGRD (spec/46_host.md). None is ever locked (R76, R217). -/

namespace Sys2Proof.Machine

/-- `NOP` (R210). -/
def execNop (s : State) : Host.Outcome State Fault Refusal :=
  .next (s.respond false 0)

/-- `SRESET` (R211): accepted in every state. -/
def execSreset (s : State) : Host.Outcome State Fault Refusal :=
  .next (s.resetMachine.respond false 0)

/-- `CFGWR addr, data` (R212): only `CTRL` can be written, and its reserved bits must be written 0. -/
def execCfgwr (addr : Nat) (data : BitVec 16) (s : State) : Host.Outcome State Fault Refusal :=
  .next (if addr = 0 ∧ data.extractLsb' 3 13 = 0 then (s.writeCtrl data).respond false 0 else s.reject .illop)

/-- `CFGRD addr` (R214): reading changes no register. -/
def execCfgrd (addr : Nat) (s : State) : Host.Outcome State Fault Refusal :=
  .next (match s.reg addr with
    | some v => s.respond false v
    | none => s.reject .illop)

end Sys2Proof.Machine
end

