-- ==== Sys2Proof/Machine/RingOps.lean ====
section
/-! DEFINITION. The ring buffer's unit operations RB.PUSH and RB.VIEW (spec/40_ring_buffer.md R107, R108). -/

namespace Sys2Proof.Machine

/-- The effect of `RB.PUSH buf, s` (R107). -/
def State.pushOp (s : State) (buf : BufId) (x : Sample) : State :=
  let r := rbPush (capacity s.params buf) (s.buffer buf) x
  (s.setBuffer buf r.1).respond r.2.1 r.2.2

/-- `RB.PUSH buf, s` (R107). -/
def execRbPush (buf : BufId) (x : Sample) (s : State) : Host.Outcome State Fault Refusal :=
  unitOp s fun s => s.pushOp buf x

/-- The element of a view at a logical offset (R104, R105). -/
def rbView (n : Nat) (b : RingBuffer) : ViewOrder → Nat → Sample
  | .oldestFirst, off => rbViewO n b off
  | .newestFirst, off => rbViewN n b off

/-- The effect of `RB.VIEW buf, ord, off` (R108): the offset is checked after the lock (R77). -/
def State.viewOp (s : State) (buf : BufId) (ord : ViewOrder) (off : Nat) : State :=
  if off < capacity s.params buf then s.respond false (rbView (capacity s.params buf) (s.buffer buf) ord off)
  else s.reject .illop

/-- `RB.VIEW buf, ord, off` (R108). -/
def execRbView (buf : BufId) (ord : ViewOrder) (off : Nat) (s : State) : Host.Outcome State Fault Refusal :=
  unitOp s fun s => s.viewOp buf ord off

end Sys2Proof.Machine
end

