-- ==== Sys2Proof/Machine/Dispatch.lean ====
section
/-! DEFINITION. The meaning of every operation: one arm per constructor of Instr. -/

namespace Sys2Proof.Machine

def exec (i : Instr) (s : State) : Host.Outcome State Fault Refusal :=
  match i with
  -- host operations (spec/46_host.md)
  | .nop => Sys2Proof.Machine.execNop s
  | .sreset => Sys2Proof.Machine.execSreset s
  | .cfgwr addr data => Sys2Proof.Machine.execCfgwr addr data s
  | .cfgrd addr => Sys2Proof.Machine.execCfgrd addr s
  -- unit operations (spec/40_ring_buffer.md to spec/44_channel.md)
  | .rbPush buf x => Sys2Proof.Machine.execRbPush buf x s
  | .rbView buf ord off => Sys2Proof.Machine.execRbView buf ord off s
  | .firStep ch x => Sys2Proof.Machine.execFirStep ch x s
  | .dlyStep ch x => Sys2Proof.Machine.execDlyStep ch x s
  | .passStep ch x => Sys2Proof.Machine.execPassStep ch x s
  | .toneStep ch => Sys2Proof.Machine.execToneStep ch s
  | .chAdv => Sys2Proof.Machine.execChAdv s
  -- environment actions (spec/45_handler.md)
  | .evt => Sys2Proof.Machine.execEvt s
  | .run rxr txr x => Sys2Proof.Machine.execRun rxr txr x s

end Sys2Proof.Machine
end

