-- ==== Sys2Proof/Machine/Issue.lean ====
section
/-! DEFINITION. How an operation reaches the SPC: the stream of arrivals (spec/30_encoding.md R70), things that arrive
together (spec/60_exceptions.md R234), the hard reset input (spec/70_reset_and_hazards.md R260), an operation word
decoded or rejected (R75, R79), and the step of each agent (spec/00_scope.md R13). -/

namespace Sys2Proof.Machine

/-- An operation word is presented (R77): it is decoded first; a word that is no operation is rejected with `ILLOP`
(R75 items 1 and 2), whatever the reason. -/
def present (w : Word) (s : State) : Host.Outcome State Fault Refusal :=
  match decode w with
  | .ok i => exec i s
  | .error _ => .next (s.reject .illop)

/-- What arrives next, and the state with it taken from the stream. Of two things that arrive together a free value
says which is taken; the other stays next (R234). -/
def State.takeArrival (s : State) : Option (Arrival × State) :=
  match s.input with
  | [] => none
  | .one a :: rest => some (a, { s with input := rest })
  | .together a b :: rest =>
    let order := if Config.firstListedFirst s.ordered then (a, b) else (b, a)
    some (order.1, { s with input := .one order.2 :: rest, ordered := s.ordered + 1 })

/-- The effect of one arrival. The hard reset input gives no response word: it is no operation word (R70, R73). -/
def arrive (a : Arrival) (s : State) : Host.Outcome State Fault Refusal :=
  match a with
  | .word w => present w s
  | .hardReset => .next s.resetMachine

/-- One step of the stream; with nothing presented the SPC waits for the next word (R21, R260). -/
def stepStream (s : State) : Host.Outcome State Fault Refusal :=
  match s.takeArrival with
  | none => .next s
  | some (a, s') => arrive a s'

/-- What each agent may do, and when (R238): the handler has no step while no invocation is open (R190). -/
def State.admits (s : State) (i : Instr) : Bool :=
  match i.agent with
  | .foreground => !i.isUnit || !s.lockedOut
  | .eventSource => true
  | .handler => s.busy

/-- The step of one agent (R13): none when the operation is another agent's, or when the handler has no invocation to
serve. A unit operation that the lock refuses is still a step: the rejection of R76. -/
def agentStep (a : Agent) (i : Instr) (s : State) : Option (Host.Outcome State Fault Refusal) :=
  if i.agent = a ∧ (a = .handler → s.busy = true) then some (exec i s) else none

end Sys2Proof.Machine
end

