-- ==== Sys2Proof/Machine/Step.lean ====
section
/-! DEFINITION. One step of the machine, and the placing of one operation word where the step takes it. -/

namespace Sys2Proof.Machine

/-- One step: the next arrival takes its whole effect (spec/20_memory.md R55, R58). A machine of an invalid parameter
tuple has no meaning (spec/00_scope.md R7). -/
def step (s : State) : Host.Outcome State Fault Refusal :=
  if s.params.valid then stepStream s else .refused .invalidParameters

/-- The operation word `w` presented next: it is put in front of the stream of arrivals (log 6). -/
def State.withFetchWord (s : State) (nbits w : Nat) : State :=
  { s with input := .one (.word (BitVec.ofNat 32 (w % 2 ^ nbits))) :: s.input }

end Sys2Proof.Machine
end

