-- ==== Sys2Proof/Machine/Assembler.lean ====
section
/-! DEFINITION. The assembler (spec/30_encoding.md R81): a line of text, its mnemonic and operands, and the operation
it names; and the pseudo-operations with their expansions (R82). Log 13. -/

namespace Sys2Proof.Machine

/-! ## Operands as written (R81) -/

/-- An operand as written: a decimal number, a `0x` hexadecimal number, or a name. -/
inductive AsmOperand where
  | decimal (v : Int)
  | hex (v : Nat)
  | name (n : String)
  deriving DecidableEq, Repr

/-- The value of one digit. -/
def asmDigit (base : Nat) (c : Char) : Option Nat :=
  let v := if '0' ≤ c ∧ c ≤ '9' then c.toNat - 48
    else if 'a' ≤ c ∧ c ≤ 'f' then c.toNat - 87
    else if 'A' ≤ c ∧ c ≤ 'F' then c.toNat - 55
    else base
  if v < base then some v else none

/-- The value of digits after a prefix of value `acc`; none when a character is no digit. -/
def asmDigitsFrom (base acc : Nat) : List Char → Option Nat
  | [] => some acc
  | c :: cs =>
    match asmDigit base c with
    | some v => asmDigitsFrom base (acc * base + v) cs
    | none => none

/-- The value of one digit or more. -/
def asmDigits (base : Nat) (cs : List Char) : Option Nat := if cs = [] then none else asmDigitsFrom base 0 cs

/-- An operand: "Numbers are decimal (optionally signed) or `0x` hexadecimal" (R81); anything else is a name. -/
def asmOperand : List Char → Option AsmOperand
  | [] => none
  | '0' :: 'x' :: cs => (asmDigits 16 cs).map .hex
  | '-' :: cs => (asmDigits 10 cs).map fun n => .decimal (-n)
  | '+' :: cs => (asmDigits 10 cs).map fun n => .decimal n
  | c :: cs =>
    if (asmDigit 10 c).isSome then (asmDigits 10 (c :: cs)).map fun n => .decimal n
    else some (.name (String.ofList (c :: cs)))

/-- The number of an operand: as written, or the number its name stands for among `names`. -/
def AsmOperand.number (names : List (String × Nat)) : AsmOperand → Option Int
  | .decimal v => some v
  | .hex v => some v
  | .name n => (names.lookup n).map fun k => (k : Int)

/-- An operand in `0..bound-1`, or one of `names`. -/
def asmField (names : List (String × Nat)) (bound : Nat) (o : AsmOperand) : Option Nat :=
  (o.number names).bind fun v => if 0 ≤ v ∧ v < bound then some v.toNat else none

/-- A Sample operand: an integer in -32768..32767, or a 16-bit pattern `0x0000`..`0xFFFF` read as two's complement. -/
def asmSample : AsmOperand → Option Sample
  | .decimal v => if -32768 ≤ v ∧ v ≤ 32767 then some (wrap16 v) else none
  | .hex v => if v ≤ 0xFFFF then some (BitVec.ofNat 16 v) else none
  | .name _ => none

/-- `reg` of `CFGWR`: `CTRL` or a number. -/
def asmWriteReg : AsmOperand → Option Nat := asmField [("CTRL", 0)] 256

/-- `reg` of `CFGRD`: a register's name or a number. -/
def asmReadReg : AsmOperand → Option Nat :=
  asmField [("CTRL", 0), ("STATUS", 1), ("CNT_TXDROP", 2), ("CNT_OVERRUN", 3), ("CNT_RXMISS", 4)] 256

/-- `data`: 0..0xFFFF. -/
def asmData (o : AsmOperand) : Option (BitVec 16) := (asmField [] 0x10000 o).map (BitVec.ofNat 16)

/-- `buf`: a buffer's name or a number 0..3. -/
def asmBuffer (o : AsmOperand) : Option BufId :=
  (asmField [("FIRL", 0), ("FIRR", 1), ("DLYL", 2), ("DLYR", 3)] 4 o).map fun n => BufId.ofBits (BitVec.ofNat 2 n)

/-- `ord`: `O` or `N`. -/
def asmOrder (o : AsmOperand) : Option ViewOrder :=
  if o = .name "O" then some .oldestFirst else if o = .name "N" then some .newestFirst else none

/-- `off`: 0..0xFFFFF. -/
def asmOffset : AsmOperand → Option Nat := asmField [] 0x100000

/-- `ch`: `L` or `R`. -/
def asmChannel (o : AsmOperand) : Option Channel :=
  if o = .name "L" then some .left else if o = .name "R" then some .right else none

/-- `rxr` and `txr`: 0 or 1. -/
def asmBit (o : AsmOperand) : Option Bool := (asmField [] 2 o).map (· == 1)

/-- `m` of the pseudo-operations: `PASS`, `FIR`, `DELAY` or `TONE` (R82). -/
def asmMode (o : AsmOperand) : Option Mode :=
  ([("PASS", .passthrough), ("FIR", .fir), ("DELAY", .delay), ("TONE", .tone)] : List (String × Mode)).findSome?
    fun e => if o = .name e.1 then some e.2 else none

/-! ## Operations (R81) and pseudo-operations (R82) -/

/-- The operation of a row of R81's table; none when the mnemonic has no row or an operand is out of range. -/
def assemble (mnemonic : String) (operands : List AsmOperand) : Option Instr :=
  match mnemonic, operands with
  | "NOP", [] => some .nop
  | "SRESET", [] => some .sreset
  | "CFGWR", [r, d] => do some (.cfgwr (← asmWriteReg r) (← asmData d))
  | "CFGRD", [r] => do some (.cfgrd (← asmReadReg r))
  | "RB.PUSH", [b, x] => do some (.rbPush (← asmBuffer b) (← asmSample x))
  | "RB.VIEW", [b, o, k] => do some (.rbView (← asmBuffer b) (← asmOrder o) (← asmOffset k))
  | "FIR.STEP", [c, x] => do some (.firStep (← asmChannel c) (← asmSample x))
  | "DLY.STEP", [c, x] => do some (.dlyStep (← asmChannel c) (← asmSample x))
  | "PASS.STEP", [c, x] => do some (.passStep (← asmChannel c) (← asmSample x))
  | "TONE.STEP", [c] => do some (.toneStep (← asmChannel c))
  | "CH.ADV", [] => some .chAdv
  | "EVT", [] => some .evt
  | "RUN", [r, t, x] => do some (.run (← asmBit r) (← asmBit t) (← asmSample x))
  | _, _ => none

/-- The pseudo-operations (R82). -/
inductive Pseudo where
  /-- `HANDLE s`: one complete, undisturbed invocation. -/
  | handle (x : Sample)
  /-- `ARM m`: select the mode and arm in one write. -/
  | arm (m : Mode)
  /-- `DISARM m`: disarm, naming the current mode. -/
  | disarm (m : Mode)
  /-- `FRAME l, r`: one stereo Frame, Left first. -/
  | frame (l r : Sample)
  deriving DecidableEq, Repr

/-- The `CTRL` value with a mode and an arm bit: `(m<<1) | en` (R82). -/
def ctrlWord (m : Mode) (en : Bool) : BitVec 16 := zext16 (modeBits m ++ BitVec.ofBool en)

/-- The expansion of a pseudo-operation (R82). -/
def Pseudo.expand : Pseudo → List Instr
  | .handle x => [.evt, .run true true x]
  | .arm m => [.cfgwr 0 (ctrlWord m true)]
  | .disarm m => [.cfgwr 0 (ctrlWord m false)]
  | .frame l r => [.evt, .run true true l, .evt, .run true true r]

/-- The pseudo-operation of a line (R82). -/
def asmPseudo (mnemonic : String) (operands : List AsmOperand) : Option Pseudo :=
  match mnemonic, operands with
  | "HANDLE", [x] => (asmSample x).map .handle
  | "ARM", [m] => (asmMode m).map .arm
  | "DISARM", [m] => (asmMode m).map .disarm
  | "FRAME", [l, r] => do some (.frame (← asmSample l) (← asmSample r))
  | _, _ => none

/-! ## Lines (R81) -/

/-- A space or a tab. -/
def asmBlank (c : Char) : Bool := c == ' ' || c == '\t'

/-- Blanks at both ends removed. -/
def asmTrim (cs : List Char) : List Char := ((cs.dropWhile asmBlank).reverse.dropWhile asmBlank).reverse

/-- The pieces between commas, the current one as read so far. -/
def asmPieces (piece : List Char) : List Char → List (List Char)
  | [] => [piece]
  | c :: cs => if c = ',' then piece :: asmPieces [] cs else asmPieces (piece ++ [c]) cs

/-- The operands of a line: none at all, or pieces separated by commas. -/
def asmOperands (cs : List Char) : Option (List AsmOperand) :=
  if asmTrim cs = [] then some [] else (asmPieces [] cs).mapM fun p => asmOperand (asmTrim p)

/-- The operations of one line (R81, R82): none for a blank line or a comment; `none` for a line that is no operation. -/
def assembleLine (line : String) : Option (List Instr) :=
  let text := asmTrim (line.toList.takeWhile fun c => c != ';')
  if text = [] then some []
  else do
    let mnemonic := String.ofList (text.takeWhile fun c => !asmBlank c)
    let operands ← asmOperands (text.dropWhile fun c => !asmBlank c)
    match assemble mnemonic operands with
    | some i => some [i]
    | none => (asmPseudo mnemonic operands).map Pseudo.expand

/-- The words of a program, one line after the other (R2, R81). -/
def assembleProgram (lines : List String) : Option (List Word) :=
  (lines.mapM assembleLine).map fun is => is.flatten.map encode

end Sys2Proof.Machine
end

