-- ==== Sys2Proof/Safety.lean ====
section
/-! DEFINITION. The terms claims use: the invariants of the state (spec/10_state.md R24), runs of operations, what a
view shows, and what a lossless run is (spec/70_reset_and_hazards.md R265). -/

namespace Sys2Proof.Machine

/-! ## Invariants -/

/-- The invariants of a ring buffer of capacity `n` (R24): the cursor and the fill are in range, the cursor equals the
fill until the buffer is full, and a slot that was never written holds 0. The slot memory is in canonical form. -/
def RingBuffer.wf (n : Nat) (b : RingBuffer) : Bool :=
  b.cur < n && b.fill ≤ n && (b.fill == n || b.cur == b.fill) && b.slot.wf && b.slot.below b.fill

/-- The invariant of the machine: a valid parameter tuple (R7), four well-formed ring buffers (R24) and both tone
indices in range (R26). -/
def State.wf (s : State) : Bool :=
  s.params.valid && s.fir.left.wf s.params.nTaps && s.fir.right.wf s.params.nTaps && s.dly.left.wf s.params.d &&
    s.dly.right.wf s.params.d && s.toneIdx.left < s.params.toneLen && s.toneIdx.right < s.params.toneLen

/-! ## Runs -/

/-- A sequence of operations one after the other (spec/20_memory.md R58), stopping at a fault or a refusal. -/
def execAll : List Instr → State → Host.Outcome State Fault Refusal
  | [], s => .next s
  | i :: is, s =>
    match exec i s with
    | .next s' => execAll is s'
    | .fault r => .fault r
    | .refused r => .refused r

/-- Samples pushed into a ring buffer one after the other. -/
def pushAll (n : Nat) (b : RingBuffer) : List Sample → RingBuffer
  | [] => b
  | x :: xs => pushAll n (rbPush n b x).1 xs

/-- The FIR engine stepped over a list of inputs: the buffer at the end and the outputs in order. -/
def firAll (p : Params) (b : RingBuffer) : List Sample → RingBuffer × List Sample
  | [] => (b, [])
  | x :: xs =>
    let r := firEngine p b x
    let r' := firAll p r.1 xs
    (r'.1, r.2 :: r'.2)

/-- The delay engine stepped over a list of inputs: the line at the end and the outputs in order. -/
def dlyAll (p : Params) (b : RingBuffer) : List Sample → RingBuffer × List Sample
  | [] => (b, [])
  | x :: xs =>
    let r := dlyEngine p b x
    let r' := dlyAll p r.1 xs
    (r'.1, r.2 :: r'.2)

/-- The tone player of a channel stepped `k` times: the outputs in order. -/
def toneAll (s : State) (c : Channel) : Nat → List Sample
  | 0 => []
  | k + 1 => (s.toneStep c).2 :: toneAll (s.toneStep c).1 c k

/-! ## Traces -/

/-- The three transport events of one invocation of channel `c` that offers `y`, in the order of R181, R186. -/
def invocationEvents (p : Params) (c : Channel) (y : Sample) : List TransportEvent :=
  [.read p.lineRx c, .write p.lineTx c y, .clear]

/-- The events of successive invocations in strict alternation, from channel `c` on (R174). -/
def alternating (p : Params) : Channel → List Sample → List TransportEvent
  | _, [] => []
  | c, y :: ys => invocationEvents p c y ++ alternating p (nextChannel c) ys

/-- The channel after `k` invocations from channel `c`. -/
def channelAfter (c : Channel) : Nat → Channel
  | 0 => c
  | k + 1 => channelAfter (nextChannel c) k

/-- The event is the read of an invocation that serves channel `c`. -/
def readsFor (c : Channel) : TransportEvent → Bool
  | .read _ c' => c' == c
  | .write _ _ _ => false
  | .clear => false

/-! ## What can be observed (R14, R56) -/

/-- Two ring buffers show the same history: every view element and the fill agree, whatever slot holds them. -/
def sameHistory (n : Nat) (b b' : RingBuffer) : Prop :=
  b.fill = b'.fill ∧ ∀ k, k < n → rbViewN n b k = rbViewN n b' k

/-- Two machines that agree in everything but the physical layout of their ring buffers. -/
def sameView (s s' : State) : Prop :=
  sameHistory s.params.nTaps s.fir.left s'.fir.left ∧ sameHistory s.params.nTaps s.fir.right s'.fir.right ∧
    sameHistory s.params.d s.dly.left s'.dly.left ∧ sameHistory s.params.d s.dly.right s'.dly.right ∧
    { s with fir := s'.fir, dly := s'.dly } = s'

/-! ## Lossless runs (R265, R272) -/

/-- No frame was dropped so far: the premise of every claim that all Samples are processed. -/
def State.lossless (s : State) : Bool := s.cntTxdrop == 0 && s.cntOverrun == 0 && s.cntRxmiss == 0

/-- What a safe run keeps: the invariant, and a transport whose event state is known (R261). -/
def State.safe (s : State) : Bool := s.wf && !s.transportUnknown

/-- The sum of the coefficients' magnitudes, the bound of R267. -/
def coefMagnitude (p : Params) : Nat → Nat
  | 0 => 0
  | k + 1 => coefMagnitude p k + (sext32 (tableRead p.coef k)).natAbs

/-- `ATT_NUM * v` formed by shift-and-add over the 1 bits of `ATT_NUM` below bit `j` (R140). -/
def shiftAdd (num : Nat) (v : Int) : Nat → Int
  | 0 => 0
  | j + 1 => shiftAdd num v j + (if num.testBit j then v * 2 ^ j else 0)

end Sys2Proof.Machine
end

