-- ==== Sys2Proof/Certificates/Slice0/Obligations.lean ====
section
/-! DEFINITION. The statements for the provers, each from the numbered rules of spec/ named in its docstring. A
statement quantifies over every parameter tuple, because the tuple is a field of State; none rests on the tuple T0.
That the trace, the responses and the stream of arrivals stand in State is the model's choice (log 3, log 6). -/

open Sys2Proof Sys2Proof.Machine

/-! ## Encoding -/

/-- O1. R71, R72, R78, R81: decoding the word of a well-formed operation gives it back, every operand included. -/
def Obligations.DecodeAfterEncode : Prop :=
  ∀ i : Instr, i.wf = true → decode (encode i) = .ok i

/-- O2. R71: every bit of an accepted word is a field of the operation or checked: encoding gives the word back. -/
def Obligations.EncodeAfterDecode : Prop :=
  ∀ (w : Word) (i : Instr), decode w = .ok i → i.wf = true ∧ encode i = w

/-- O3. R78: "the masks make the rows disjoint". -/
def Obligations.OpcodeRowsDisjoint : Prop :=
  ∀ (w : Word) (r r' : OpRow), r ∈ opcodeMap → r' ∈ opcodeMap → r.selects w = true → r'.selects w = true → r = r'

/-- O4. R78, R79: the decoder accepts exactly the words that select a row of the table, here written out again. -/
def Obligations.DecoderAcceptsExactlyTheTable : Prop :=
  ∀ w : Word, (∃ i, decode w = .ok i) ↔
    w = 0x00000000 ∨ w = 0x01000000 ∨ w &&& 0xFF000000 = 0x02000000 ∨ w &&& 0xFF00FFFF = 0x03000000 ∨
    w &&& 0xFF3F0000 = 0x10000000 ∨ w &&& 0xFF100000 = 0x11000000 ∨ w &&& 0xFFFE0000 = 0x20000000 ∨
    w &&& 0xFFFE0000 = 0x30000000 ∨ w &&& 0xFFFE0000 = 0x40000000 ∨ w &&& 0xFFFEFFFF = 0x41000000 ∨
    w = 0x50000000 ∨ w = 0x60000000 ∨ w &&& 0xFFFC0000 = 0x61000000

/-- O5. R81 and the examples of R107, R108, R126, R144, R161, R185: words written out bit by bit decode as the spec
says. -/
def Obligations.DecodesWordsOfEveryUnit : Prop :=
  decode 0b00000010000000000000000000000011 = .ok (.cfgwr 0 3) ∧
  decode 0b00010000000000001111111110011100 = .ok (.rbPush .firL (-100)) ∧
  decode 0b00010001001000000000000000000000 = .ok (.rbView .firL .newestFirst 0) ∧
  decode 0b00100000000000000000000001100100 = .ok (.firStep .left 100) ∧
  decode 0b00110000000000000000001111101000 = .ok (.dlyStep .left 1000) ∧
  decode 0b01000000000000011111111110011100 = .ok (.passStep .right (-100)) ∧
  decode 0b01010000000000000000000000000000 = .ok .chAdv ∧
  decode 0b01100001000000110000000001100100 = .ok (.run true true 100)

/-! ## The stream of operations -/

/-- O6. R70, R74, R75: when the next arrival is an operation word, the step is the presentation of that word at the
state with the word taken from the stream (the stream is the model's: log 6): the operation's meaning when the word
decodes, and `reject(ILLOP)`, which sets `ILLOP`, answers 0 and changes nothing else, when it does not. -/
def Obligations.StepRunsTheDecodedOperation : Prop :=
  ∀ (s : State) (w : Word) (rest : List Input), s.params.valid = true → s.input = .one (.word w) :: rest →
    step s = present w { s with input := rest } ∧
    (∀ i, decode w = .ok i → step s = exec i { s with input := rest }) ∧
    (∀ e, decode w = .error e → step s =
      .next { s with input := rest, illop := true, responses := s.responses ++ [0] })

/-- O7. R58, R70: presenting the words of a sequence of operations runs the operations one after the other, in order,
and leaves the rest of the stream alone (the stream is the model's: log 6). -/
def Obligations.StreamOfWordsRunsInOrder : Prop :=
  ∀ (is : List Instr) (s : State) (rest : List Input), (∀ i ∈ is, i.wf = true) → s.params.valid = true →
    s.input = is.map (fun i => Input.one (.word (encode i))) ++ rest →
    core.run is.length s = execAll is { s with input := rest }

/-- O8. R234: of two things that arrive together, one is executed after the other, in either order; which, is a free
value (log 4), so the statement is a disjunction. -/
def Obligations.TogetherIsEitherOrder : Prop :=
  ∀ (s : State) (a b : Arrival) (rest : List Input), s.params.valid = true → s.input = .together a b :: rest →
    step s = step { s with input := .one a :: .one b :: rest, ordered := s.ordered + 1 } ∨
    step s = step { s with input := .one b :: .one a :: rest, ordered := s.ordered + 1 }

/-- O9. R234: the order of an EVT and a CFGRD STATUS decides whether `BUSY` (bit 1) is read as 1 or 0, and the order of
an EVT and a disarming CFGWR CTRL decides whether an invocation opens. -/
def Obligations.OrderOfSimultaneousArrivalsIsVisible : Prop :=
  ∀ s : State, s.en = true → s.busy = false →
    (∃ t r, execAll [.evt, .cfgrd 1] s = .next t ∧ t.responses.getLast? = some r ∧ r.getLsbD 1 = true) ∧
    (∃ t r, execAll [.cfgrd 1] s = .next t ∧ t.responses.getLast? = some r ∧ r.getLsbD 1 = false) ∧
    (∃ t, execAll [.evt, .cfgwr 0 0] s = .next t ∧ t.busy = true ∧ t.en = false) ∧
    (∃ t, execAll [.cfgwr 0 0, .evt] s = .next t ∧ t.busy = false ∧ t.en = false)

/-- O10. R260: the hard reset input has the effect of SRESET; it is no operation word and gets no response (R70, R73;
the model's reading, log 8). -/
def Obligations.HardResetEqualsSoftReset : Prop :=
  ∀ (s : State) (rest : List Input), s.params.valid = true → s.input = .one .hardReset :: rest →
    ∃ t, step s = .next t ∧ t.responses = s.responses ∧
      exec .sreset { s with input := rest } = .next { t with responses := s.responses ++ [0x80000000] }

/-- O11. R21 ("the SPC waits for the next"): with nothing presented a step changes nothing. That the model's step idles
there is its own choice (log 6). -/
def Obligations.WaitsWithNothingPresented : Prop :=
  ∀ s : State, s.params.valid = true → s.input = [] → step s = .next s

/-- O12. R230: the SPC never halts: a machine of a valid tuple always has a next state; of an invalid tuple it has no
meaning (R7), which the model says by a refusal (log 7). -/
def Obligations.NeverHalts : Prop :=
  ∀ s : State, (s.params.valid = true → ∃ t, step s = .next t) ∧
    (s.params.valid = false → step s = .refused .invalidParameters)

/-- O13. R73: every operation word produces exactly one response word; bits 30:17 are 0, and a word with `ok = 0` is
0. -/
def Obligations.OneResponsePerWord : Prop :=
  ∀ (w : Word) (s t : State), present w s = .next t →
    ∃ r : Word, t.responses = s.responses ++ [r] ∧ r.extractLsb' 17 14 = 0 ∧ (r.getLsbD 31 = false → r = 0)

/-- O14. R73: where `ok`, `flag` and `data` stand in a response word. -/
def Obligations.ResponseWordLayout : Prop :=
  ∀ (ok flag : Bool) (data : BitVec 16),
    (responseWord ok flag data).toNat = ok.toNat * 2 ^ 31 + flag.toNat * 2 ^ 16 + data.toNat

/-! ## Rejection -/

/-- O15. R74, R75: `reject(ILLOP)` happens when, and only when, one of the five conditions holds; it sets `ILLOP`,
answers 0 and changes nothing else. -/
def Obligations.RejectsIllopExactlyWhenIllegal : Prop :=
  ∀ (w : Word) (s t : State), present w s = .next t →
    let illegal : Prop :=
      (∀ r ∈ opcodeMap, w &&& r.mask ≠ r.pattern) ∨
      (∃ addr data, decode w = .ok (.cfgwr addr data) ∧ (addr ≠ 0 ∨ data.extractLsb' 3 13 ≠ 0)) ∨
      (∃ addr, decode w = .ok (.cfgrd addr) ∧ 4 < addr) ∨
      (∃ buf ord off, decode w = .ok (.rbView buf ord off) ∧ s.en = false ∧ s.busy = false ∧
        capacity s.params buf ≤ off)
    (illegal → t = { s with illop := true, responses := s.responses ++ [0] }) ∧
    (¬ illegal → t.illop = true → s.illop = true)

/-- O16. R76: a unit operation is rejected with `LOCKED` while armed or busy: only `LOCKED` changes and the answer is
0. No other operation is ever locked: none but a `CFGWR CTRL` that asks for another mode while armed (R35, R213) sets
`LOCKED`, and that one still answers `ok`. -/
def Obligations.LocksExactlyUnitOperations : Prop :=
  ∀ (i : Instr) (s t : State), exec i s = .next t →
    (i.isUnit = true → s.en = true ∨ s.busy = true →
      t = { s with locked := true, responses := s.responses ++ [0] }) ∧
    (s.locked = false → t.locked = true →
      (i.isUnit = true ∧ (s.en = true ∨ s.busy = true)) ∨
      (∃ data : BitVec 16, i = .cfgwr 0 data ∧ s.en = true ∧ data.extractLsb' 1 2 ≠ modeBits s.mode ∧
        t.responses = s.responses ++ [0x80000000]))

/-! ## Host operations -/

/-- O17. R210: NOP answers `ok` and changes nothing; a word of its opcode with any other bit set is rejected with
`ILLOP`; neither is ever locked. -/
def Obligations.NopOnlyAnswers : Prop :=
  ∀ s : State, exec .nop s = .next { s with responses := s.responses ++ [0x80000000] } ∧
    present 0 s = exec .nop s ∧
    ∀ w : Word, w.extractLsb' 24 8 = 0 → w ≠ 0 →
      present w s = .next { s with illop := true, responses := s.responses ++ [0] }

/-- O18. R211, R38, R261: after SRESET every piece of state has its reset value, in every state the SPC was in; the
parameters and what was emitted stay, no `T_CLEAR` is emitted, and a reset of an open invocation leaves the transport
unknown (log 5: the field is the model's). -/
def Obligations.SresetGivesResetValues : Prop :=
  ∀ s : State, ∃ t, exec .sreset s = .next t ∧ t.chState = .left ∧
    (∀ buf, (t.buffer buf).cur = 0 ∧ (t.buffer buf).fill = 0 ∧ ∀ i, (t.buffer buf).slot.read i = 0) ∧
    (∀ c, t.toneIdx.get c = 0) ∧ t.busy = false ∧ t.en = false ∧ t.mode = .passthrough ∧ t.illop = false ∧
    t.locked = false ∧ t.cntTxdrop = 0 ∧ t.cntOverrun = 0 ∧ t.cntRxmiss = 0 ∧ t.params = s.params ∧
    t.trace = s.trace ∧ t.responses = s.responses ++ [0x80000000] ∧ t.input = s.input ∧ t.ordered = s.ordered ∧
    (s.busy = true → t.transportUnknown = true) ∧ (s.busy = false → t.transportUnknown = s.transportUnknown)

/-- O19. R213: a legal write to `CTRL`. `MODE` takes `data[2:1]` only while disarmed; while armed an attempt to change
it sets `LOCKED`; `EN` takes `data[0]`; the answer is `ok`; nothing else changes. -/
def Obligations.CfgwrWritesControl : Prop :=
  ∀ (s : State) (data : BitVec 16) (m : Mode), data.extractLsb' 3 13 = 0 → modeBits m = data.extractLsb' 1 2 →
    exec (.cfgwr 0 data) s = .next { s with
      mode := if s.en = true then s.mode else m
      en := data.getLsbD 0
      locked := s.locked || (s.en && decide (m ≠ s.mode))
      responses := s.responses ++ [0x80000000] }

/-- O20. R212, R216: a write to an address other than 0, or of a 1 into `CTRL` bits 15:3, is rejected with `ILLOP`. -/
def Obligations.CfgwrRejectsReadOnlyUnmappedReserved : Prop :=
  ∀ (s : State) (addr : Nat) (data : BitVec 16), addr ≠ 0 ∨ data.extractLsb' 3 13 ≠ 0 →
    exec (.cfgwr addr data) s = .next { s with illop := true, responses := s.responses ++ [0] }

/-- O21. R215: the value each register reads as, in every state; reading changes nothing. -/
def Obligations.CfgrdReadsRegisters : Prop :=
  ∀ s : State,
    let reads (addr : Nat) (v : BitVec 16) : Prop :=
      exec (.cfgrd addr) s = .next { s with responses := s.responses ++ [responseWord true false v] }
    (∃ v, reads 0 v ∧ v.toNat = s.en.toNat + 2 * (modeBits s.mode).toNat) ∧
    (∃ v, reads 1 v ∧ v.toNat = (channelBit s.chState).toNat + 2 * s.busy.toNat + 4 * s.illop.toNat +
      8 * s.locked.toNat) ∧
    reads 2 s.cntTxdrop ∧ reads 3 s.cntOverrun ∧ reads 4 s.cntRxmiss

/-- O22. R216: a read of or a write to an unmapped address is rejected with `ILLOP`: no value is returned, nothing is
stored; an address above 255 cannot be expressed. -/
def Obligations.UnmappedAddressesRejected : Prop :=
  ∀ (s : State) (addr : Nat) (data : BitVec 16), 4 < addr →
    exec (.cfgrd addr) s = .next { s with illop := true, responses := s.responses ++ [0] } ∧
    exec (.cfgwr addr data) s = .next { s with illop := true, responses := s.responses ++ [0] } ∧
    (255 < addr → ∀ w : Word, decode w ≠ .ok (.cfgrd addr) ∧ decode w ≠ .ok (.cfgwr addr data))

/-! ## Ring buffer -/

/-- O23. R102, R103, R107: RB.PUSH. Exactly the slot the cursor names changes, `cur` moves by one modulo the capacity,
`fill` counts up to the capacity; the answer is the evicted Sample, or none during the first N insertions; every other
buffer and all other state is unchanged. -/
def Obligations.PushInsertsOneSample : Prop :=
  ∀ (s : State) (buf : BufId) (x : Sample), s.wf = true → s.en = false → s.busy = false →
    let b := s.buffer buf
    let n := capacity s.params buf
    ∃ t, exec (.rbPush buf x) s = .next t ∧
      (∀ i, (t.buffer buf).slot.read i = if i = b.cur then x else b.slot.read i) ∧
      (t.buffer buf).cur = (b.cur + 1) % n ∧ (t.buffer buf).fill = min n (b.fill + 1) ∧
      t.responses = s.responses ++
        [if b.fill = n then responseWord true true (b.slot.read b.cur) else responseWord true false 0] ∧
      (∀ j, j ≠ buf → t.buffer j = s.buffer j) ∧
      { t with fir := s.fir, dly := s.dly, responses := s.responses } = s

/-- O24. R104, R105, R108: RB.VIEW answers the element at the logical offset and changes no state; at an offset of the
capacity or more it is rejected with `ILLOP`. -/
def Obligations.ViewReadsOneElement : Prop :=
  ∀ (s : State) (buf : BufId) (off : Nat), s.en = false → s.busy = false →
    let b := s.buffer buf
    let n := capacity s.params buf
    (off < n →
      exec (.rbView buf .oldestFirst off) s = .next { s with
        responses := s.responses ++ [responseWord true false (b.slot.read ((b.cur + off) % n))] } ∧
      exec (.rbView buf .newestFirst off) s = .next { s with
        responses := s.responses ++
          [responseWord true false (b.slot.read (((b.cur : Int) - 1 - (off : Int)) % (n : Int)).toNat)] }) ∧
    (n ≤ off → ∀ ord, exec (.rbView buf ord off) s =
      .next { s with illop := true, responses := s.responses ++ [0] })

/-- O25. R105: the two views are one sequence read in opposite directions. -/
def Obligations.ViewsAreMirrorImages : Prop :=
  ∀ (n : Nat) (b : RingBuffer) (k : Nat), k < n → rbViewN n b k = rbViewO n b (n - 1 - k)

/-- O26. R106 (the spec derives it from R102, R104 and R38): after the Samples `ps` have been inserted since reset, the
view oldest first is the last `n` of them, preceded by reset zeros while fewer than `n` were inserted. -/
def Obligations.ViewShowsTheLastInserted : Prop :=
  ∀ (n : Nat) (ps : List Sample) (i : Nat), i < n →
    (n ≤ ps.length → ps[ps.length - n + i]? = some (rbViewO n (pushAll n .empty ps) i)) ∧
    (ps.length < n → i < n - ps.length → rbViewO n (pushAll n .empty ps) i = 0) ∧
    (ps.length < n → n - ps.length ≤ i →
      ps[i - (n - ps.length)]? = some (rbViewO n (pushAll n .empty ps) i))

/-- O27. R56 (the spec derives it): which physical slot holds which element cannot be observed. Two machines whose
buffers show the same history answer every operation alike, emit the same events, and still show the same history. -/
def Obligations.PhysicalLayoutUnobservable : Prop :=
  ∀ (i : Instr) (s s' t t' : State), s.wf = true → s'.wf = true → sameView s s' → exec i s = .next t →
    exec i s' = .next t' → sameView t t'

/-- O28. R109 (the spec derives it): a direct push changes the engine's buffer as the engine's own insertion does. -/
def Obligations.DirectPushIsEngineHistory : Prop :=
  ∀ (s t : State) (x : Sample), s.en = false → s.busy = false →
    (exec (.rbPush .firL x) s = .next t → t.fir = (s.firStep .left x).1.fir) ∧
    (exec (.rbPush .firR x) s = .next t → t.fir = (s.firStep .right x).1.fir) ∧
    (exec (.rbPush .dlyL (s.dlyStep .left x).2) s = .next t → t.dly = (s.dlyStep .left x).1.dly) ∧
    (exec (.rbPush .dlyR (s.dlyStep .right x).2) s = .next t → t.dly = (s.dlyStep .right x).1.dly)

/-! ## FIR engine -/

/-- O29. R121 (the spec derives it from R120): the range of `q15mul`, its one value that is no Sample, and that it is
commutative. -/
def Obligations.Q15MulRange : Prop :=
  ∀ a b : Sample, -32767 ≤ q15mul a b ∧ q15mul a b ≤ 32768 ∧ q15mul a b = q15mul b a ∧
    (q15mul a b = 32768 ↔ a.toInt = -32768 ∧ b.toInt = -32768)

/-- O30. R120, R122, R123, R125, R126: FIR.STEP inserts the Sample first, then answers the low 16 bits of the sum over
`k` of `floor(COEF[k] * (k-th newest Sample) / 2^15)`; only that channel's FIR buffer changes. -/
def Obligations.FirStepConvolves : Prop :=
  ∀ (s : State) (c : Channel) (x : Sample), s.wf = true → s.en = false → s.busy = false →
    let b := s.fir.get c
    let n := s.params.nTaps
    let newest (k : Nat) : Sample := if k = 0 then x else b.slot.read ((b.cur + n - k) % n)
    ∃ t, exec (.firStep c x) s = .next t ∧
      (∀ i, (t.fir.get c).slot.read i = if i = b.cur then x else b.slot.read i) ∧
      (t.fir.get c).cur = (b.cur + 1) % n ∧ (t.fir.get c).fill = min n (b.fill + 1) ∧
      t.responses = s.responses ++ [responseWord true false (BitVec.ofInt 16
        (∑ k ∈ Finset.range n, (s.params.coef.getD k 0).toInt * (newest k).toInt / 2 ^ 15))] ∧
      t.fir.get (nextChannel c) = s.fir.get (nextChannel c) ∧
      { t with fir := s.fir, responses := s.responses } = s

/-- O31. R125, R127: from reset the FIR engine's n-th output is the convolution of the inputs with the coefficients,
with inputs before reset taken as 0. -/
def Obligations.FirIsConvolutionFromReset : Prop :=
  ∀ (p : Params) (xs : List Sample) (n : Nat), p.valid = true → n < xs.length →
    (firAll p .empty xs).2[n]? = some (BitVec.ofInt 16
      (∑ k ∈ Finset.range p.nTaps,
        (p.coef.getD k 0).toInt * (if k ≤ n then (xs.getD (n - k) 0).toInt else 0) / 2 ^ 15))

/-- O32. R267: while the coefficients' magnitudes sum to at most 32768, the spec's bound, no output wraps, but for the
corner the rule names: a sum of exactly +32768. While they sum to at most 32767, none wraps. -/
def Obligations.FirDoesNotWrapWithinBound : Prop :=
  ∀ (p : Params) (b : RingBuffer) (x : Sample),
    let sum := firAcc p (firEngine p b x).1 p.nTaps
    let y := (firEngine p b x).2
    (coefMagnitude p p.nTaps ≤ 32768 → y.toInt = sum ∨ (sum = 32768 ∧ y.toInt = -32768)) ∧
    (coefMagnitude p p.nTaps ≤ 32767 → y.toInt = sum)

/-- O33. R128, R146 (the spec derives them): the channels of the FIR and of the delay engine are independent. A step of
one channel leaves the other's buffer and next output alone, and steps of two channels may be exchanged. -/
def Obligations.EngineChannelsIndependent : Prop :=
  ∀ (s : State) (c : Channel) (x x' : Sample),
    let c' := nextChannel c
    (s.firStep c x).1.fir.get c' = s.fir.get c' ∧
    ((s.firStep c x).1.firStep c' x').2 = (s.firStep c' x').2 ∧
    ((s.firStep c x).1.firStep c' x').1 = ((s.firStep c' x').1.firStep c x).1 ∧
    (s.dlyStep c x).1.dly.get c' = s.dly.get c' ∧
    ((s.dlyStep c x).1.dlyStep c' x').2 = (s.dlyStep c' x').2 ∧
    ((s.dlyStep c x).1.dlyStep c' x').1 = ((s.dlyStep c' x').1.dlyStep c x).1

/-! ## Delay engine -/

/-- O34. R140, R141, R142, R144: DLY.STEP reads the slot at the cursor, answers the wrapped sum of the input and the
attenuated old Sample, and stores that output in the same slot; only that channel's delay line changes. -/
def Obligations.DelayStepFeedsBack : Prop :=
  ∀ (s : State) (c : Channel) (x : Sample), s.wf = true → s.en = false → s.busy = false →
    let b := s.dly.get c
    let y : Sample := BitVec.ofInt 16
      (x.toInt + (s.params.attNum : Int) * (b.slot.read b.cur).toInt / 2 ^ s.params.attShift)
    ∃ t, exec (.dlyStep c x) s = .next t ∧
      (∀ i, (t.dly.get c).slot.read i = if i = b.cur then y else b.slot.read i) ∧
      (t.dly.get c).cur = (b.cur + 1) % s.params.d ∧ (t.dly.get c).fill = min s.params.d (b.fill + 1) ∧
      t.responses = s.responses ++ [responseWord true false y] ∧
      t.dly.get (nextChannel c) = s.dly.get (nextChannel c) ∧
      { t with dly := s.dly, responses := s.responses } = s

/-- O35. R143 (the spec derives it from R140, R141): from reset `y[n] = wrap16(x[n] + att(y[n - D]))`, with `y` taken
as 0 before reset. -/
def Obligations.DelayRecurrenceFromReset : Prop :=
  ∀ (p : Params) (xs : List Sample) (n : Nat), p.valid = true → n < xs.length →
    let ys := (dlyAll p .empty xs).2
    ys[n]? = some (BitVec.ofInt 16 ((xs.getD n 0).toInt +
      (p.attNum : Int) * (if p.d ≤ n then (ys.getD (n - p.d) 0).toInt else 0) / 2 ^ p.attShift))

/-- O36. R143: the echoes of an impulse `a` stand at the multiples of `D`, the k-th attenuated k times; every other
output is 0. -/
def Obligations.ImpulseEchoesAtMultiplesOfD : Prop :=
  ∀ (p : Params) (a : Sample) (m n : Nat), p.valid = true → n ≤ m →
    ((dlyAll p .empty (a :: List.replicate m 0)).2.getD n 0).toInt =
      if p.d ∣ n then (fun v : Int => (p.attNum : Int) * v / 2 ^ p.attShift)^[n / p.d] a.toInt else 0

/-- O37. R140: the attenuation is a fixed-point shift-and-add: `ATT_NUM * v` is the sum of `v << j` over the 1 bits `j`
of `ATT_NUM`, followed by one shift. -/
def Obligations.AttenuationIsShiftAndAdd : Prop :=
  ∀ (p : Params) (v : Sample), p.valid = true →
    shiftAdd p.attNum v.toInt 15 = (p.attNum : Int) * v.toInt ∧
    att p v = shiftAdd p.attNum v.toInt 15 / 2 ^ p.attShift

/-- O38. R145 (the spec derives it from R140): at every legal attenuation -1 is attenuated to -1 and 1 to 0. So a
residue of -1 in a delay line stays for ever under zero input: its slot holds -1 after any number of steps, and every
`D`-th output is -1. A residue of 1 is gone at the first visit of its slot: the answer and the slot are 0. -/
def Obligations.NegativeResidueNeverDecays : Prop :=
  ∀ (p : Params) (b : RingBuffer), p.valid = true → b.wf p.d = true →
    att p (-1) = -1 ∧ att p 1 = 0 ∧
    (b.slot.read b.cur = -1 → ∀ m : Nat,
      (dlyAll p b (List.replicate m 0)).1.slot.read b.cur = -1 ∧
      ∀ k, k * p.d < m → (dlyAll p b (List.replicate m 0)).2[k * p.d]? = some (-1)) ∧
    (b.slot.read b.cur = 1 → (dlyEngine p b 0).2 = 0 ∧ (dlyEngine p b 0).1.slot.read b.cur = 0)

/-! ## Minimal engines and the channel state -/

/-- O39. R160, R161: PASS.STEP answers its Sample and changes no state. -/
def Obligations.PassStepAnswersItsSample : Prop :=
  ∀ (s : State) (c : Channel) (x : Sample), s.en = false → s.busy = false →
    exec (.passStep c x) s = .next { s with responses := s.responses ++ [responseWord true false x] }

/-- O40. R163, R164: TONE.STEP answers the table entry the channel's index names and moves that index by one modulo
`TONE_LEN`; nothing else changes. -/
def Obligations.ToneStepWalksTheTable : Prop :=
  ∀ (s : State) (c : Channel), s.wf = true → s.en = false → s.busy = false →
    ∃ t y, exec (.toneStep c) s = .next t ∧ s.params.tone[s.toneIdx.get c]? = some y ∧
      t.responses = s.responses ++ [responseWord true false y] ∧
      t.toneIdx.get c = (s.toneIdx.get c + 1) % s.params.toneLen ∧
      t.toneIdx.get (nextChannel c) = s.toneIdx.get (nextChannel c) ∧
      { t with toneIdx := s.toneIdx, responses := s.responses } = s

/-- O41. R163, R164: the n-th Sample a channel's tone player gives is the entry n places on, around the table; after
`TONE_LEN` steps the index is back. -/
def Obligations.TonePlayerIsCircular : Prop :=
  ∀ (s : State) (c : Channel) (m n : Nat), s.wf = true → n < m →
    (toneAll s c m)[n]? = s.params.tone[(s.toneIdx.get c + n) % s.params.toneLen]? ∧
    ((fun t : State => (t.toneStep c).1)^[s.params.toneLen] s) = s

/-- O42. R170, R171, R173: CH.ADV toggles the channel state and answers the new one; nothing else changes. -/
def Obligations.ChAdvToggles : Prop :=
  ∀ s : State, s.en = false → s.busy = false →
    (s.chState = .left → exec .chAdv s =
      .next { s with chState := .right, responses := s.responses ++ [0x80000001] }) ∧
    (s.chState = .right → exec .chAdv s =
      .next { s with chState := .left, responses := s.responses ++ [0x80000000] })

/-! ## Event and handler -/

/-- O43. R183, R235: EVT is masked while disarmed, counted and dropped during an open invocation (the counter stops at
65535), and else opens an invocation, which sets `busy` and does nothing else. -/
def Obligations.EventIsMaskedCountedOrAccepted : Prop :=
  ∀ s : State,
    (s.en = false → exec .evt s = .next { s with responses := s.responses ++ [0x80000000] }) ∧
    (s.en = true → s.busy = true → exec .evt s = .next { s with
      cntOverrun := if s.cntOverrun = 65535 then 65535 else s.cntOverrun + 1
      responses := s.responses ++ [0x80000000] }) ∧
    (s.en = true → s.busy = false → exec .evt s =
      .next { s with busy := true, responses := s.responses ++ [0x80010000] })

/-- O44. R185 to R188: RUN with an open invocation: one read, the engine of `CTRL.MODE` on the channel of `ch_state` (no
engine and the Sample 0 when the read was not ready), one write, the counts, the toggle, the acknowledgement, the
answer; nothing else changes. -/
def Obligations.RunServesTheOpenInvocation : Prop :=
  ∀ (s : State) (rxr txr : Bool) (x : Sample), s.busy = true →
    let c := s.chState
    let p := s.params
    let y : Sample := if rxr = false then 0 else match s.mode with
      | .passthrough => x
      | .fir => (firEngine p (s.fir.get c) x).2
      | .delay => (dlyEngine p (s.dly.get c) x).2
      | .tone => tableRead p.tone (s.toneIdx.get c)
    exec (.run rxr txr x) s = .next { s with
      fir := if rxr = true ∧ s.mode = .fir then s.fir.set c (firEngine p (s.fir.get c) x).1 else s.fir
      dly := if rxr = true ∧ s.mode = .delay then s.dly.set c (dlyEngine p (s.dly.get c) x).1 else s.dly
      toneIdx := if rxr = true ∧ s.mode = .tone then s.toneIdx.set c ((s.toneIdx.get c + 1) % p.toneLen)
        else s.toneIdx
      cntRxmiss := if rxr = true ∨ s.cntRxmiss = 65535 then s.cntRxmiss else s.cntRxmiss + 1
      cntTxdrop := if txr = true ∨ s.cntTxdrop = 65535 then s.cntTxdrop else s.cntTxdrop + 1
      chState := nextChannel c
      busy := false
      trace := s.trace ++ [.read p.lineRx c, .write p.lineTx c y, .clear]
      responses := s.responses ++ [responseWord true txr y] }

/-- O45. R190: RUN with no open invocation changes no state, emits nothing, and answers 0; the handler agent has no
step then. -/
def Obligations.RunWithoutInvocationDoesNothing : Prop :=
  ∀ (s : State) (rxr txr : Bool) (x : Sample), s.busy = false →
    exec (.run rxr txr x) s = .next { s with responses := s.responses ++ [0] } ∧
    ∀ i, agentStep .handler i s = none

/-- O46. R192 (the spec derives it): in passthrough, an event and a RUN whose read yields `x` and whose write is
accepted write `x` in the same invocation, and no counter moves. -/
def Obligations.PassthroughHandsTheSampleOn : Prop :=
  ∀ (s : State) (x : Sample), s.en = true → s.busy = false → s.mode = .passthrough →
    execAll [.evt, .run true true x] s = .next { s with
      chState := nextChannel s.chState
      trace := s.trace ++ [.read s.params.lineRx s.chState, .write s.params.lineTx s.chState x, .clear]
      responses := s.responses ++ [0x80010000, responseWord true true x] }

/-! ## The whole machine -/

/-- O47. R7, R24, R26: every step keeps the invariant: cursors, fills and tone indices in range, `cur = fill` until a
buffer is full, slots never written 0, the tuple valid. Its last clause, the slot memories in canonical form, is no rule
of the spec: it is the model's own (log 9, DESIGN CHOICE; R56 leaves the form of storage open). -/
def Obligations.StepKeepsTheInvariant : Prop :=
  ∀ s t : State, s.wf = true → step s = .next t → t.wf = true

/-- O48. R24, R38: the machine of every valid tuple has the invariant right after reset; that of the canonical slot
memories is the model's own (log 9). -/
def Obligations.ResetHasTheInvariant : Prop :=
  ∀ p : Params, p.valid = true → (State.resetOf p).wf = true

/-- O49. R25, R61: no step changes the parameters; the tables an engine reads cannot be written. -/
def Obligations.ParametersNeverChange : Prop :=
  ∀ s t : State, step s = .next t → t.params = s.params

/-- O50. R181, R186, R191: the trace grows only by a RUN that serves an open invocation, and then by exactly one read,
one write and one clear of the channel the state named at entry, with one toggle and `busy` down. -/
def Obligations.TraceGrowsByWholeInvocations : Prop :=
  ∀ (w : Word) (s t : State), present w s = .next t →
    (∃ y, s.busy = true ∧ (∃ rxr txr x, decode w = .ok (.run rxr txr x)) ∧ t.busy = false ∧
      t.chState = nextChannel s.chState ∧ t.trace = s.trace ++ invocationEvents s.params s.chState y) ∨
    ((s.busy = false ∨ ∀ rxr txr x, decode w ≠ .ok (.run rxr txr x)) ∧ t.trace = s.trace)

/-- O51. R174 (the spec derives it from R170, R171): over any sequence of operations with no CH.ADV and no reset, the
invocations strictly alternate from the channel state at the start, and the channel state has toggled once for each. -/
def Obligations.InvocationsAlternate : Prop :=
  ∀ (is : List Instr) (s t : State), (∀ i ∈ is, i ≠ .chAdv ∧ i ≠ .sreset) → execAll is s = .next t →
    ∃ ys, t.trace = s.trace ++ alternating s.params s.chState ys ∧ t.chState = channelAfter s.chState ys.length

/-- O52. R174: of alternating invocations the counts of Left and Right differ by at most one, and over an even number
of them they are equal. -/
def Obligations.AlternationBalancesChannels : Prop :=
  ∀ (p : Params) (c : Channel) (ys : List Sample),
    let l := (alternating p c ys).countP (readsFor .left)
    let r := (alternating p c ys).countP (readsFor .right)
    l + r = ys.length ∧ l ≤ r + 1 ∧ r ≤ l + 1 ∧ (ys.length % 2 = 0 → l = r)

/-- O53. R28, R236, R237: an invocation opens only by an EVT while armed, and closes only by its RUN or a reset. -/
def Obligations.OnlyEventOpensOnlyRunOrResetCloses : Prop :=
  ∀ (i : Instr) (s t : State), exec i s = .next t →
    (s.busy = false → t.busy = true → i = .evt ∧ s.en = true) ∧
    (s.busy = true → t.busy = false → i = .sreset ∨ ∃ rxr txr x, i = .run rxr txr x)

/-- O54. R32 to R36, R239: but for SRESET, a sticky flag is never cleared, and each counter moves only on its own cause,
by one, and never down. -/
def Obligations.CountersCountTheirCauseOnly : Prop :=
  ∀ (i : Instr) (s t : State), exec i s = .next t → i ≠ .sreset →
    (s.illop = true → t.illop = true) ∧ (s.locked = true → t.locked = true) ∧
    (t.cntTxdrop = s.cntTxdrop ∨ ((∃ rxr x, i = .run rxr false x) ∧ s.busy = true ∧
      t.cntTxdrop.toNat = s.cntTxdrop.toNat + 1)) ∧
    (t.cntOverrun = s.cntOverrun ∨ (i = .evt ∧ s.en = true ∧ s.busy = true ∧
      t.cntOverrun.toNat = s.cntOverrun.toNat + 1)) ∧
    (t.cntRxmiss = s.cntRxmiss ∨ ((∃ txr x, i = .run false txr x) ∧ s.busy = true ∧
      t.cntRxmiss.toNat = s.cntRxmiss.toNat + 1))

/-- O55. R30, R213: the mode changes only by a CFGWR CTRL while disarmed, or by a reset. -/
def Obligations.ModeChangesOnlyWhileDisarmed : Prop :=
  ∀ (i : Instr) (s t : State), exec i s = .next t → t.mode ≠ s.mode →
    i = .sreset ∨ (s.en = false ∧ ∃ data, i = .cfgwr 0 data)

/-- O56. R76, R238: while armed or busy, no foreground operation but SRESET reaches the pipeline state; the mode stays
too while armed (R213). -/
def Obligations.ForegroundShutOutWhileArmedOrBusy : Prop :=
  ∀ (i : Instr) (s t : State), i.agent = .foreground → i ≠ .sreset → s.en = true ∨ s.busy = true →
    exec i s = .next t →
    t.fir = s.fir ∧ t.dly = s.dly ∧ t.toneIdx = s.toneIdx ∧ t.chState = s.chState ∧ t.busy = s.busy ∧
      (s.en = true → t.mode = s.mode) ∧ t.trace = s.trace ∧ t.cntTxdrop = s.cntTxdrop ∧ t.cntOverrun = s.cntOverrun ∧
      t.cntRxmiss = s.cntRxmiss

/-- O57. R13, R190, R238: each agent's step is the meaning of its own operations; an agent has no step on another's
operation, and the handler has none while no invocation is open. -/
def Obligations.AgentsStepTheirOwnOperations : Prop :=
  ∀ (a : Agent) (i : Instr) (s : State),
    (agentStep a i s = none ↔ i.agent ≠ a ∨ (a = .handler ∧ s.busy = false)) ∧
    (∀ o, agentStep a i s = some o → o = exec i s) ∧
    (s.admits i = false → ∃ t, exec i s = .next t ∧ { t with locked := s.locked, responses := s.responses } = s)

/-- O58. R8 (the spec derives it from R6): the sampling frequency enters no operation. -/
def Obligations.SamplingFrequencyEntersNoOperation : Prop :=
  ∀ (i : Instr) (s t : State) (f : Nat), exec i s = .next t →
    exec i { s with params := { s.params with fs := f } } = .next { t with params := { t.params with fs := f } }

/-- O59. R6, R7, spec/90_conflicts.md C10: which sampling frequencies a valid tuple may have. -/
def Obligations.ValidSamplingFrequencies : Prop :=
  ∀ p : Params, p.valid = true →
    ∃ k, p.fs = 4000 * k ∧ 2 ≤ k ∧ k ≤ 12 ∧ { p with fs := 44000 }.valid = true ∧
      { p with fs := 44100 }.valid = false ∧ { p with fs := 22050 }.valid = false
end

