-- ==== Sys2Proof/Laws/PerInstr.lean ====
section
/-! SUPPORT. Per instruction: the word the encoder writes selects the instruction's own row of the opcode map
(spec/30_encoding.md R78, R81). -/

namespace Sys2Proof.Laws.EncodeSelects

/-- The encoder's word of a well-formed instruction selects the instruction's row. -/
def Statement (i : Instr) : Prop := i.wf = true → i.row.selects (encode i) = true

/-- An address that fits its field is an 8-bit pattern. -/
theorem addr_bits {a : Nat} (h : addrFits a = true) : ∃ v : BitVec 8, BitVec.ofNat 32 a = v.setWidth 32 ∧ v.toNat = a := by
  simp only [addrFits, decide_eq_true_eq] at h
  exact ⟨BitVec.ofNat 8 a, by apply BitVec.eq_of_toNat_eq; simp; omega, by simp; omega⟩

/-- An offset that fits its field is a 20-bit pattern. -/
theorem off_bits {a : Nat} (h : offFits a = true) : ∃ v : BitVec 20, BitVec.ofNat 32 a = v.setWidth 32 ∧ v.toNat = a := by
  simp only [offFits, decide_eq_true_eq] at h
  exact ⟨BitVec.ofNat 20 a, by apply BitVec.eq_of_toNat_eq; simp; omega, by simp; omega⟩

/-- Two words with the same bits are equal: the shape of every proof about an encoding. -/
theorem selects_of_bits {r : OpRow} {w : Word} (h : ∀ i, i < 32 → (w &&& r.mask).getLsbD i = r.pattern.getLsbD i) :
    r.selects w = true :=
  beq_iff_eq.2 (BitVec.eq_of_getLsbD_eq fun i hi => h i hi)

theorem nop : Statement .nop := fun _ => by decide

theorem sreset : Statement .sreset := fun _ => by decide

theorem cfgwr (addr : Nat) (data : BitVec 16) : Statement (.cfgwr addr data) := fun h => by
  obtain ⟨a, ha, -⟩ := addr_bits h
  refine selects_of_bits fun i hi => ?_
  simp only [encode, ha, Instr.row, rowCfgwr]
  interval_cases i <;> simp

theorem cfgrd (addr : Nat) : Statement (.cfgrd addr) := fun h => by
  obtain ⟨a, ha, -⟩ := addr_bits h
  refine selects_of_bits fun i hi => ?_
  simp only [encode, ha, Instr.row, rowCfgrd]
  interval_cases i <;> simp

theorem rbPush (buf : BufId) (x : Sample) : Statement (.rbPush buf x) := fun _ => by
  refine selects_of_bits fun i hi => ?_
  cases buf <;> simp only [encode, BufId.bits, Instr.row, rowRbPush] <;> interval_cases i <;> simp

theorem rbView (buf : BufId) (ord : ViewOrder) (off : Nat) : Statement (.rbView buf ord off) := fun h => by
  obtain ⟨a, ha, -⟩ := off_bits h
  refine selects_of_bits fun i hi => ?_
  cases buf <;> cases ord <;> simp only [encode, ha, BufId.bits, ViewOrder.bits, Instr.row, rowRbView] <;>
    interval_cases i <;> simp

theorem firStep (ch : Channel) (x : Sample) : Statement (.firStep ch x) := fun _ => by
  refine selects_of_bits fun i hi => ?_
  cases ch <;> simp only [encode, Channel.bits, Instr.row, rowFirStep] <;> interval_cases i <;> simp

theorem dlyStep (ch : Channel) (x : Sample) : Statement (.dlyStep ch x) := fun _ => by
  refine selects_of_bits fun i hi => ?_
  cases ch <;> simp only [encode, Channel.bits, Instr.row, rowDlyStep] <;> interval_cases i <;> simp

theorem passStep (ch : Channel) (x : Sample) : Statement (.passStep ch x) := fun _ => by
  refine selects_of_bits fun i hi => ?_
  cases ch <;> simp only [encode, Channel.bits, Instr.row, rowPassStep] <;> interval_cases i <;> simp

theorem toneStep (ch : Channel) : Statement (.toneStep ch) := fun _ => by
  cases ch <;> decide

theorem chAdv : Statement .chAdv := fun _ => by decide

theorem evt : Statement .evt := fun _ => by decide

theorem run (rxr txr : Bool) (x : Sample) : Statement (.run rxr txr x) := fun _ => by
  refine selects_of_bits fun i hi => ?_
  cases rxr <;> cases txr <;> simp only [encode, flagBits, Instr.row, rowRun] <;> interval_cases i <;> simp

end Sys2Proof.Laws.EncodeSelects
end

