-- ==== Sys2Proof/Laws/Decode.lean ====
section
/-! SUPPORT. What the decoder answers (spec/30_encoding.md R78, R79), said once: the operation of the row a word
selects, with its fields; and the shapes of a proof about the bits of a word. -/

namespace Sys2Proof

theorem decode_eq_ok {w : Word} {i : Instr} (h : decode w = .ok i) : ∃ d ∈ decoders, d.1.selects w = true ∧ i = d.2 w := by
  unfold decode at h
  split at h
  · next d hd =>
    injection h with h
    exact ⟨d, List.mem_of_find?_eq_some hd, List.find?_some (p := fun d : OpRow × (Word → Instr) => d.1.selects w) hd, h.symm⟩
  · cases h

/-- The decoder accepts a word only as the operation of a row the word selects, with the fields of R72. -/
theorem decode_ok {w : Word} {i : Instr} (h : decode w = .ok i) : i.row.selects w = true ∧
    i = match i with
      | .nop => .nop
      | .sreset => .sreset
      | .cfgwr _ _ => .cfgwr (addrField w) (dataField w)
      | .cfgrd _ => .cfgrd (addrField w)
      | .rbPush _ _ => .rbPush (bufField w) (dataField w)
      | .rbView _ _ _ => .rbView (bufField w) (ordField w) (offField w)
      | .firStep _ _ => .firStep (chField w) (dataField w)
      | .dlyStep _ _ => .dlyStep (chField w) (dataField w)
      | .passStep _ _ => .passStep (chField w) (dataField w)
      | .toneStep _ => .toneStep (chField w)
      | .chAdv => .chAdv
      | .evt => .evt
      | .run _ _ _ => .run (rxrField w) (txrField w) (dataField w) := by
  obtain ⟨d, hd, hs, rfl⟩ := decode_eq_ok h
  simp only [decoders, List.mem_cons, List.not_mem_nil, or_false] at hd
  rcases hd with rfl | rfl | rfl | rfl | rfl | rfl | rfl | rfl | rfl | rfl | rfl | rfl | rfl <;> exact ⟨hs, rfl⟩

/-- A word that selects no row is rejected. -/
theorem decode_error {w : Word} (h : ∀ r ∈ opcodeMap, r.selects w = false) : decode w = .error (illegalReason w) := by
  have : decoders.find? (fun d => d.1.selects w) = none :=
    List.find?_eq_none.2 fun d hd => by
      have : d.1 ∈ opcodeMap := List.mem_map_of_mem (f := Prod.fst) hd
      simp [h _ this]
  simp [decode, this]

/-- A word that selects a row is accepted. -/
theorem decode_selected {w : Word} {r : OpRow} (hr : r ∈ opcodeMap) (h : r.selects w = true) :
    ∃ i, decode w = .ok i := by
  unfold decode
  split
  · exact ⟨_, rfl⟩
  · next hn =>
    have hm : r ∈ decoders.map Prod.fst := hr
    obtain ⟨d, hd, rfl⟩ := List.mem_map.1 hm
    exact absurd h (by simpa using List.find?_eq_none.1 hn d hd)

/-- The row of every operation is a row of the table. -/
theorem Instr.row_mem (i : Instr) : i.row ∈ opcodeMap := by
  cases i <;> simp [Instr.row, opcodeMap]

/-- Equality of two bit vectors bit by bit; `interval_cases` then makes each bit a numeral. -/
theorem word_eq_of_bits {n : Nat} {a b : BitVec n} (h : ∀ i, i < n → a.getLsbD i = b.getLsbD i) : a = b :=
  BitVec.eq_of_getLsbD_eq fun i hi => h i hi

/-- What selecting a row says about each bit of the word. -/
theorem OpRow.selects_bit {r : OpRow} {w : Word} (h : r.selects w = true) (i : Nat) :
    (w.getLsbD i && r.mask.getLsbD i) = r.pattern.getLsbD i := by
  rw [← BitVec.getLsbD_and, beq_iff_eq.1 h]

end Sys2Proof
end

