-- ==== Sys2Proof/Laws/Memory.lean ====
section
/-! SUPPORT. The laws of the slot access primitives (spec/20_memory.md R52): a read after a write, and that a write
keeps the canonical form. -/

namespace Sys2Proof.Machine.Memory

theorem above_iff {m : Memory} {i : Nat} : m.above i = true ↔ ∀ c ∈ m, i < c.1 := by
  simp only [above, List.all_eq_true, decide_eq_true_eq]

theorem below_iff {m : Memory} {n : Nat} : m.below n = true ↔ ∀ c ∈ m, c.1 < n := by
  simp only [below, List.all_eq_true, decide_eq_true_eq]

theorem wf_cons {k : Nat} {x : Sample} {m : Memory} :
    wf ((k, x) :: m) = true ↔ x ≠ 0 ∧ m.above k = true ∧ m.wf = true := by
  simp [wf, unlisted, and_assoc]

@[simp] theorem read_nil (i : Nat) : Memory.read [] i = 0 := rfl

theorem read_cons (k : Nat) (x : Sample) (m : Memory) (i : Nat) :
    Memory.read ((k, x) :: m) i = if k = i then x else m.read i := rfl

/-- A slot that is not listed reads as 0 (R38). -/
theorem read_of_not_listed {m : Memory} {i : Nat} (h : ∀ c ∈ m, c.1 ≠ i) : m.read i = 0 := by
  induction m with
  | nil => rfl
  | cons c m ih =>
    rw [read_cons, if_neg (h _ List.mem_cons_self)]
    exact ih fun c hc => h c (List.mem_cons_of_mem _ hc)

theorem read_of_above {m : Memory} {i j : Nat} (h : m.above i = true) (hj : j ≤ i) : m.read j = 0 :=
  read_of_not_listed fun c hc => by have := above_iff.1 h c hc; omega

theorem read_of_below {m : Memory} {n i : Nat} (h : m.below n = true) (hi : n ≤ i) : m.read i = 0 :=
  read_of_not_listed fun c hc => by have := below_iff.1 h c hc; omega

/-- A write lists no slot but its own. -/
theorem listed_of_write {m : Memory} {i : Nat} {v : Sample} {c : Nat × Sample} (h : c ∈ m.write i v) :
    c ∈ m ∨ c.1 = i := by
  induction m with
  | nil =>
    simp only [write] at h
    split_ifs at h
    · exact .inl h
    · exact .inr (by rw [List.mem_singleton.1 h])
  | cons d m ih =>
    simp only [write] at h
    split_ifs at h <;> simp only [List.mem_cons] at h ⊢
    · exact .inl h
    · rcases h with rfl | h
      exacts [.inr rfl, .inl h]
    · exact .inl (.inr h)
    · rcases h with rfl | h
      exacts [.inr rfl, .inl (.inr h)]
    · rcases h with h | h
      · exact .inl (.inl h)
      · exact (ih h).imp .inr id

theorem above_write {m : Memory} {k i : Nat} {v : Sample} (h : m.above k = true) (hi : k < i) :
    (m.write i v).above k = true :=
  above_iff.2 fun c hc => (listed_of_write hc).elim (above_iff.1 h c) fun e => e ▸ hi

/-- `MemWrite` to a slot below a bound keeps the bound. -/
theorem below_write {m : Memory} {n i : Nat} (v : Sample) (h : m.below n = true) (hi : i < n) :
    (m.write i v).below n = true :=
  below_iff.2 fun c hc => (listed_of_write hc).elim (below_iff.1 h c) fun e => e ▸ hi

theorem below_mono {m : Memory} {n n' : Nat} (h : m.below n = true) (hn : n ≤ n') : m.below n' = true :=
  below_iff.2 fun c hc => Nat.lt_of_lt_of_le (below_iff.1 h c hc) hn

/-- `MemWrite` keeps the canonical form. -/
theorem wf_write {m : Memory} (i : Nat) (v : Sample) (h : m.wf = true) : (m.write i v).wf = true := by
  induction m with
  | nil => by_cases hv : v = unlisted <;> simp [write, wf, above, hv]
  | cons c m ih =>
    obtain ⟨k, x⟩ := c
    have hc := wf_cons.1 h
    simp only [write]
    split_ifs with h1 h2 h3 h4
    · exact h
    · refine wf_cons.2 ⟨h2, above_iff.2 fun c hm => ?_, h⟩
      rcases List.mem_cons.1 hm with rfl | hm
      · exact h1
      · exact Nat.lt_trans h1 (above_iff.1 hc.2.1 c hm)
    · exact hc.2.2
    · exact wf_cons.2 ⟨h4, h3 ▸ hc.2.1, hc.2.2⟩
    · exact wf_cons.2 ⟨hc.1, above_write hc.2.1 (by omega), ih hc.2.2⟩

/-- What `MemWrite` does, read slot by slot (R52): slot `i` holds `v`, every other slot is unchanged. -/
theorem read_write {m : Memory} (i j : Nat) (v : Sample) (h : m.wf = true) :
    (m.write i v).read j = if j = i then v else m.read j := by
  induction m with
  | nil =>
    by_cases hv : v = unlisted
    · subst hv; simp [write, unlisted]
    · simp only [write, hv, if_false, read_cons, read_nil, eq_comm]
  | cons c m ih =>
    obtain ⟨k, x⟩ := c
    have hc := wf_cons.1 h
    rcases Nat.lt_trichotomy i k with h1 | h1 | h1
    · have h0 : Memory.read m i = 0 := read_of_above hc.2.1 (by omega)
      by_cases hv : v = unlisted
      · simp only [write, h1, hv, if_true, read_cons]
        by_cases hj : j = i
        · subst hj; simpa [h0, unlisted] using fun h => absurd h (by omega)
        · simp [hj]
      · simp only [write, h1, hv, if_true, if_false, read_cons, eq_comm]
    · subst h1
      have h0 : Memory.read m i = 0 := read_of_above hc.2.1 (by omega)
      by_cases hv : v = unlisted
      · simp only [write, lt_irrefl, hv, if_true, if_false, read_cons]
        by_cases hj : j = i
        · subst hj; simp [h0, unlisted]
        · simp [hj, Ne.symm hj]
      · simp only [write, lt_irrefl, hv, if_true, if_false, read_cons]
        by_cases hj : j = i
        · simp [hj]
        · simp [hj, Ne.symm hj]
    · have h2 : ¬ i < k := by omega
      have h3 : i ≠ k := by omega
      simp only [write, h2, h3, if_false, read_cons, ih hc.2.2]
      by_cases hj : j = i
      · subst hj; simp [Ne.symm h3]
      · simp [hj]

theorem read_write_same {m : Memory} (i : Nat) (v : Sample) (h : m.wf = true) : (m.write i v).read i = v := by
  rw [read_write i i v h, if_pos rfl]

theorem read_write_ne {m : Memory} {i j : Nat} (v : Sample) (h : m.wf = true) (hj : j ≠ i) :
    (m.write i v).read j = m.read j := by
  rw [read_write i j v h, if_neg hj]

end Sys2Proof.Machine.Memory
end

