-- ==== Sys2Proof/Laws/State.lean ====
section
/-! SUPPORT. One lemma per field per update of State, so that no later proof unfolds a record update. -/

namespace Sys2Proof.Machine

variable (s : State)

/-! ## Values per channel -/

@[simp] theorem Stereo.get_set_same {α : Type} (v : Stereo α) (c : Channel) (a : α) : (v.set c a).get c = a := by
  cases c <;> rfl

@[simp] theorem Stereo.get_set_next {α : Type} (v : Stereo α) (c : Channel) (a : α) :
    (v.set c a).get (nextChannel c) = v.get (nextChannel c) := by
  cases c <;> rfl

theorem Stereo.set_comm {α : Type} (v : Stereo α) (c : Channel) (a a' : α) :
    (v.set c a).set (nextChannel c) a' = (v.set (nextChannel c) a').set c a := by
  cases c <;> rfl

@[simp] theorem Stereo.get_set_next' {α : Type} (v : Stereo α) (c : Channel) (a : α) :
    (v.set (nextChannel c) a).get c = v.get c := by
  cases c <;> rfl

@[simp] theorem Stereo.set_set {α : Type} (v : Stereo α) (c : Channel) (a a' : α) :
    (v.set c a).set c a' = v.set c a' := by
  cases c <;> rfl

@[simp] theorem Stereo.set_get {α : Type} (v : Stereo α) (c : Channel) : v.set c (v.get c) = v := by
  cases c <;> rfl

@[simp] theorem nextChannel_nextChannel (c : Channel) : nextChannel (nextChannel c) = c := by cases c <;> rfl

theorem nextChannel_ne (c : Channel) : nextChannel c ≠ c := by cases c <;> decide

/-! ## `answer` -/

@[simp] theorem State.answer_params (w : Word) : (s.answer w).params = s.params := rfl
@[simp] theorem State.answer_fir (w : Word) : (s.answer w).fir = s.fir := rfl
@[simp] theorem State.answer_dly (w : Word) : (s.answer w).dly = s.dly := rfl
@[simp] theorem State.answer_toneIdx (w : Word) : (s.answer w).toneIdx = s.toneIdx := rfl
@[simp] theorem State.answer_chState (w : Word) : (s.answer w).chState = s.chState := rfl
@[simp] theorem State.answer_busy (w : Word) : (s.answer w).busy = s.busy := rfl
@[simp] theorem State.answer_en (w : Word) : (s.answer w).en = s.en := rfl
@[simp] theorem State.answer_mode (w : Word) : (s.answer w).mode = s.mode := rfl
@[simp] theorem State.answer_illop (w : Word) : (s.answer w).illop = s.illop := rfl
@[simp] theorem State.answer_locked (w : Word) : (s.answer w).locked = s.locked := rfl
@[simp] theorem State.answer_cntTxdrop (w : Word) : (s.answer w).cntTxdrop = s.cntTxdrop := rfl
@[simp] theorem State.answer_cntOverrun (w : Word) : (s.answer w).cntOverrun = s.cntOverrun := rfl
@[simp] theorem State.answer_cntRxmiss (w : Word) : (s.answer w).cntRxmiss = s.cntRxmiss := rfl
@[simp] theorem State.answer_trace (w : Word) : (s.answer w).trace = s.trace := rfl
@[simp] theorem State.answer_responses (w : Word) : (s.answer w).responses = s.responses ++ [w] := rfl
@[simp] theorem State.answer_input (w : Word) : (s.answer w).input = s.input := rfl
@[simp] theorem State.answer_ordered (w : Word) : (s.answer w).ordered = s.ordered := rfl
@[simp] theorem State.answer_transportUnknown (w : Word) : (s.answer w).transportUnknown = s.transportUnknown := rfl

/-! ## `emit` -/

@[simp] theorem State.emit_params (e : TransportEvent) : (s.emit e).params = s.params := rfl
@[simp] theorem State.emit_fir (e : TransportEvent) : (s.emit e).fir = s.fir := rfl
@[simp] theorem State.emit_dly (e : TransportEvent) : (s.emit e).dly = s.dly := rfl
@[simp] theorem State.emit_toneIdx (e : TransportEvent) : (s.emit e).toneIdx = s.toneIdx := rfl
@[simp] theorem State.emit_chState (e : TransportEvent) : (s.emit e).chState = s.chState := rfl
@[simp] theorem State.emit_busy (e : TransportEvent) : (s.emit e).busy = s.busy := rfl
@[simp] theorem State.emit_en (e : TransportEvent) : (s.emit e).en = s.en := rfl
@[simp] theorem State.emit_mode (e : TransportEvent) : (s.emit e).mode = s.mode := rfl
@[simp] theorem State.emit_illop (e : TransportEvent) : (s.emit e).illop = s.illop := rfl
@[simp] theorem State.emit_locked (e : TransportEvent) : (s.emit e).locked = s.locked := rfl
@[simp] theorem State.emit_cntTxdrop (e : TransportEvent) : (s.emit e).cntTxdrop = s.cntTxdrop := rfl
@[simp] theorem State.emit_cntOverrun (e : TransportEvent) : (s.emit e).cntOverrun = s.cntOverrun := rfl
@[simp] theorem State.emit_cntRxmiss (e : TransportEvent) : (s.emit e).cntRxmiss = s.cntRxmiss := rfl
@[simp] theorem State.emit_trace (e : TransportEvent) : (s.emit e).trace = s.trace ++ [e] := rfl
@[simp] theorem State.emit_responses (e : TransportEvent) : (s.emit e).responses = s.responses := rfl
@[simp] theorem State.emit_input (e : TransportEvent) : (s.emit e).input = s.input := rfl
@[simp] theorem State.emit_ordered (e : TransportEvent) : (s.emit e).ordered = s.ordered := rfl
@[simp] theorem State.emit_transportUnknown (e : TransportEvent) : (s.emit e).transportUnknown = s.transportUnknown :=
  rfl

/-! ## `countTxdrop` -/

@[simp] theorem State.countTxdrop_params : (s.countTxdrop).params = s.params := rfl
@[simp] theorem State.countTxdrop_fir : (s.countTxdrop).fir = s.fir := rfl
@[simp] theorem State.countTxdrop_dly : (s.countTxdrop).dly = s.dly := rfl
@[simp] theorem State.countTxdrop_toneIdx : (s.countTxdrop).toneIdx = s.toneIdx := rfl
@[simp] theorem State.countTxdrop_chState : (s.countTxdrop).chState = s.chState := rfl
@[simp] theorem State.countTxdrop_busy : (s.countTxdrop).busy = s.busy := rfl
@[simp] theorem State.countTxdrop_en : (s.countTxdrop).en = s.en := rfl
@[simp] theorem State.countTxdrop_mode : (s.countTxdrop).mode = s.mode := rfl
@[simp] theorem State.countTxdrop_illop : (s.countTxdrop).illop = s.illop := rfl
@[simp] theorem State.countTxdrop_locked : (s.countTxdrop).locked = s.locked := rfl
@[simp] theorem State.countTxdrop_cntTxdrop : (s.countTxdrop).cntTxdrop = satInc s.cntTxdrop := rfl
@[simp] theorem State.countTxdrop_cntOverrun : (s.countTxdrop).cntOverrun = s.cntOverrun := rfl
@[simp] theorem State.countTxdrop_cntRxmiss : (s.countTxdrop).cntRxmiss = s.cntRxmiss := rfl
@[simp] theorem State.countTxdrop_trace : (s.countTxdrop).trace = s.trace := rfl
@[simp] theorem State.countTxdrop_responses : (s.countTxdrop).responses = s.responses := rfl
@[simp] theorem State.countTxdrop_input : (s.countTxdrop).input = s.input := rfl
@[simp] theorem State.countTxdrop_ordered : (s.countTxdrop).ordered = s.ordered := rfl
@[simp] theorem State.countTxdrop_transportUnknown : (s.countTxdrop).transportUnknown = s.transportUnknown := rfl

/-! ## `countOverrun` -/

@[simp] theorem State.countOverrun_params : (s.countOverrun).params = s.params := rfl
@[simp] theorem State.countOverrun_fir : (s.countOverrun).fir = s.fir := rfl
@[simp] theorem State.countOverrun_dly : (s.countOverrun).dly = s.dly := rfl
@[simp] theorem State.countOverrun_toneIdx : (s.countOverrun).toneIdx = s.toneIdx := rfl
@[simp] theorem State.countOverrun_chState : (s.countOverrun).chState = s.chState := rfl
@[simp] theorem State.countOverrun_busy : (s.countOverrun).busy = s.busy := rfl
@[simp] theorem State.countOverrun_en : (s.countOverrun).en = s.en := rfl
@[simp] theorem State.countOverrun_mode : (s.countOverrun).mode = s.mode := rfl
@[simp] theorem State.countOverrun_illop : (s.countOverrun).illop = s.illop := rfl
@[simp] theorem State.countOverrun_locked : (s.countOverrun).locked = s.locked := rfl
@[simp] theorem State.countOverrun_cntTxdrop : (s.countOverrun).cntTxdrop = s.cntTxdrop := rfl
@[simp] theorem State.countOverrun_cntOverrun : (s.countOverrun).cntOverrun = satInc s.cntOverrun := rfl
@[simp] theorem State.countOverrun_cntRxmiss : (s.countOverrun).cntRxmiss = s.cntRxmiss := rfl
@[simp] theorem State.countOverrun_trace : (s.countOverrun).trace = s.trace := rfl
@[simp] theorem State.countOverrun_responses : (s.countOverrun).responses = s.responses := rfl
@[simp] theorem State.countOverrun_input : (s.countOverrun).input = s.input := rfl
@[simp] theorem State.countOverrun_ordered : (s.countOverrun).ordered = s.ordered := rfl
@[simp] theorem State.countOverrun_transportUnknown : (s.countOverrun).transportUnknown = s.transportUnknown := rfl

/-! ## `countRxmiss` -/

@[simp] theorem State.countRxmiss_params : (s.countRxmiss).params = s.params := rfl
@[simp] theorem State.countRxmiss_fir : (s.countRxmiss).fir = s.fir := rfl
@[simp] theorem State.countRxmiss_dly : (s.countRxmiss).dly = s.dly := rfl
@[simp] theorem State.countRxmiss_toneIdx : (s.countRxmiss).toneIdx = s.toneIdx := rfl
@[simp] theorem State.countRxmiss_chState : (s.countRxmiss).chState = s.chState := rfl
@[simp] theorem State.countRxmiss_busy : (s.countRxmiss).busy = s.busy := rfl
@[simp] theorem State.countRxmiss_en : (s.countRxmiss).en = s.en := rfl
@[simp] theorem State.countRxmiss_mode : (s.countRxmiss).mode = s.mode := rfl
@[simp] theorem State.countRxmiss_illop : (s.countRxmiss).illop = s.illop := rfl
@[simp] theorem State.countRxmiss_locked : (s.countRxmiss).locked = s.locked := rfl
@[simp] theorem State.countRxmiss_cntTxdrop : (s.countRxmiss).cntTxdrop = s.cntTxdrop := rfl
@[simp] theorem State.countRxmiss_cntOverrun : (s.countRxmiss).cntOverrun = s.cntOverrun := rfl
@[simp] theorem State.countRxmiss_cntRxmiss : (s.countRxmiss).cntRxmiss = satInc s.cntRxmiss := rfl
@[simp] theorem State.countRxmiss_trace : (s.countRxmiss).trace = s.trace := rfl
@[simp] theorem State.countRxmiss_responses : (s.countRxmiss).responses = s.responses := rfl
@[simp] theorem State.countRxmiss_input : (s.countRxmiss).input = s.input := rfl
@[simp] theorem State.countRxmiss_ordered : (s.countRxmiss).ordered = s.ordered := rfl
@[simp] theorem State.countRxmiss_transportUnknown : (s.countRxmiss).transportUnknown = s.transportUnknown := rfl

/-! ## `acceptEvent` -/

@[simp] theorem State.acceptEvent_params : (s.acceptEvent).params = s.params := rfl
@[simp] theorem State.acceptEvent_fir : (s.acceptEvent).fir = s.fir := rfl
@[simp] theorem State.acceptEvent_dly : (s.acceptEvent).dly = s.dly := rfl
@[simp] theorem State.acceptEvent_toneIdx : (s.acceptEvent).toneIdx = s.toneIdx := rfl
@[simp] theorem State.acceptEvent_chState : (s.acceptEvent).chState = s.chState := rfl
@[simp] theorem State.acceptEvent_busy : (s.acceptEvent).busy = true := rfl
@[simp] theorem State.acceptEvent_en : (s.acceptEvent).en = s.en := rfl
@[simp] theorem State.acceptEvent_mode : (s.acceptEvent).mode = s.mode := rfl
@[simp] theorem State.acceptEvent_illop : (s.acceptEvent).illop = s.illop := rfl
@[simp] theorem State.acceptEvent_locked : (s.acceptEvent).locked = s.locked := rfl
@[simp] theorem State.acceptEvent_cntTxdrop : (s.acceptEvent).cntTxdrop = s.cntTxdrop := rfl
@[simp] theorem State.acceptEvent_cntOverrun : (s.acceptEvent).cntOverrun = s.cntOverrun := rfl
@[simp] theorem State.acceptEvent_cntRxmiss : (s.acceptEvent).cntRxmiss = s.cntRxmiss := rfl
@[simp] theorem State.acceptEvent_trace : (s.acceptEvent).trace = s.trace := rfl
@[simp] theorem State.acceptEvent_responses : (s.acceptEvent).responses = s.responses := rfl
@[simp] theorem State.acceptEvent_input : (s.acceptEvent).input = s.input := rfl
@[simp] theorem State.acceptEvent_ordered : (s.acceptEvent).ordered = s.ordered := rfl
@[simp] theorem State.acceptEvent_transportUnknown : (s.acceptEvent).transportUnknown = s.transportUnknown := rfl

/-! ## `endInvocation` -/

@[simp] theorem State.endInvocation_params : (s.endInvocation).params = s.params := rfl
@[simp] theorem State.endInvocation_fir : (s.endInvocation).fir = s.fir := rfl
@[simp] theorem State.endInvocation_dly : (s.endInvocation).dly = s.dly := rfl
@[simp] theorem State.endInvocation_toneIdx : (s.endInvocation).toneIdx = s.toneIdx := rfl
@[simp] theorem State.endInvocation_chState : (s.endInvocation).chState = s.chState := rfl
@[simp] theorem State.endInvocation_busy : (s.endInvocation).busy = false := rfl
@[simp] theorem State.endInvocation_en : (s.endInvocation).en = s.en := rfl
@[simp] theorem State.endInvocation_mode : (s.endInvocation).mode = s.mode := rfl
@[simp] theorem State.endInvocation_illop : (s.endInvocation).illop = s.illop := rfl
@[simp] theorem State.endInvocation_locked : (s.endInvocation).locked = s.locked := rfl
@[simp] theorem State.endInvocation_cntTxdrop : (s.endInvocation).cntTxdrop = s.cntTxdrop := rfl
@[simp] theorem State.endInvocation_cntOverrun : (s.endInvocation).cntOverrun = s.cntOverrun := rfl
@[simp] theorem State.endInvocation_cntRxmiss : (s.endInvocation).cntRxmiss = s.cntRxmiss := rfl
@[simp] theorem State.endInvocation_trace : (s.endInvocation).trace = s.trace ++ [.clear] := rfl
@[simp] theorem State.endInvocation_responses : (s.endInvocation).responses = s.responses := rfl
@[simp] theorem State.endInvocation_input : (s.endInvocation).input = s.input := rfl
@[simp] theorem State.endInvocation_ordered : (s.endInvocation).ordered = s.ordered := rfl
@[simp] theorem State.endInvocation_transportUnknown : (s.endInvocation).transportUnknown = s.transportUnknown := rfl

/-! ## `chAdvance` -/

@[simp] theorem State.chAdvance_params : (s.chAdvance).params = s.params := rfl
@[simp] theorem State.chAdvance_fir : (s.chAdvance).fir = s.fir := rfl
@[simp] theorem State.chAdvance_dly : (s.chAdvance).dly = s.dly := rfl
@[simp] theorem State.chAdvance_toneIdx : (s.chAdvance).toneIdx = s.toneIdx := rfl
@[simp] theorem State.chAdvance_chState : (s.chAdvance).chState = nextChannel s.chState := rfl
@[simp] theorem State.chAdvance_busy : (s.chAdvance).busy = s.busy := rfl
@[simp] theorem State.chAdvance_en : (s.chAdvance).en = s.en := rfl
@[simp] theorem State.chAdvance_mode : (s.chAdvance).mode = s.mode := rfl
@[simp] theorem State.chAdvance_illop : (s.chAdvance).illop = s.illop := rfl
@[simp] theorem State.chAdvance_locked : (s.chAdvance).locked = s.locked := rfl
@[simp] theorem State.chAdvance_cntTxdrop : (s.chAdvance).cntTxdrop = s.cntTxdrop := rfl
@[simp] theorem State.chAdvance_cntOverrun : (s.chAdvance).cntOverrun = s.cntOverrun := rfl
@[simp] theorem State.chAdvance_cntRxmiss : (s.chAdvance).cntRxmiss = s.cntRxmiss := rfl
@[simp] theorem State.chAdvance_trace : (s.chAdvance).trace = s.trace := rfl
@[simp] theorem State.chAdvance_responses : (s.chAdvance).responses = s.responses := rfl
@[simp] theorem State.chAdvance_input : (s.chAdvance).input = s.input := rfl
@[simp] theorem State.chAdvance_ordered : (s.chAdvance).ordered = s.ordered := rfl
@[simp] theorem State.chAdvance_transportUnknown : (s.chAdvance).transportUnknown = s.transportUnknown := rfl

/-! ## `respond` -/

@[simp] theorem State.respond_params (f : Bool) (d : BitVec 16) : (s.respond f d).params = s.params := rfl
@[simp] theorem State.respond_fir (f : Bool) (d : BitVec 16) : (s.respond f d).fir = s.fir := rfl
@[simp] theorem State.respond_dly (f : Bool) (d : BitVec 16) : (s.respond f d).dly = s.dly := rfl
@[simp] theorem State.respond_toneIdx (f : Bool) (d : BitVec 16) : (s.respond f d).toneIdx = s.toneIdx := rfl
@[simp] theorem State.respond_chState (f : Bool) (d : BitVec 16) : (s.respond f d).chState = s.chState := rfl
@[simp] theorem State.respond_busy (f : Bool) (d : BitVec 16) : (s.respond f d).busy = s.busy := rfl
@[simp] theorem State.respond_en (f : Bool) (d : BitVec 16) : (s.respond f d).en = s.en := rfl
@[simp] theorem State.respond_mode (f : Bool) (d : BitVec 16) : (s.respond f d).mode = s.mode := rfl
@[simp] theorem State.respond_illop (f : Bool) (d : BitVec 16) : (s.respond f d).illop = s.illop := rfl
@[simp] theorem State.respond_locked (f : Bool) (d : BitVec 16) : (s.respond f d).locked = s.locked := rfl
@[simp] theorem State.respond_cntTxdrop (f : Bool) (d : BitVec 16) : (s.respond f d).cntTxdrop = s.cntTxdrop := rfl
@[simp] theorem State.respond_cntOverrun (f : Bool) (d : BitVec 16) : (s.respond f d).cntOverrun = s.cntOverrun := rfl
@[simp] theorem State.respond_cntRxmiss (f : Bool) (d : BitVec 16) : (s.respond f d).cntRxmiss = s.cntRxmiss := rfl
@[simp] theorem State.respond_trace (f : Bool) (d : BitVec 16) : (s.respond f d).trace = s.trace := rfl
@[simp] theorem State.respond_responses (f : Bool) (d : BitVec 16) : (s.respond f d).responses = s.responses ++ [responseWord true f d] :=
  rfl
@[simp] theorem State.respond_input (f : Bool) (d : BitVec 16) : (s.respond f d).input = s.input := rfl
@[simp] theorem State.respond_ordered (f : Bool) (d : BitVec 16) : (s.respond f d).ordered = s.ordered := rfl
@[simp] theorem State.respond_transportUnknown (f : Bool) (d : BitVec 16) : (s.respond f d).transportUnknown = s.transportUnknown :=
  rfl

/-! ## `setSticky` -/

@[simp] theorem State.setSticky_params (f : StickyFlag) : (s.setSticky f).params = s.params := by cases f <;> rfl
@[simp] theorem State.setSticky_fir (f : StickyFlag) : (s.setSticky f).fir = s.fir := by cases f <;> rfl
@[simp] theorem State.setSticky_dly (f : StickyFlag) : (s.setSticky f).dly = s.dly := by cases f <;> rfl
@[simp] theorem State.setSticky_toneIdx (f : StickyFlag) : (s.setSticky f).toneIdx = s.toneIdx := by cases f <;> rfl
@[simp] theorem State.setSticky_chState (f : StickyFlag) : (s.setSticky f).chState = s.chState := by cases f <;> rfl
@[simp] theorem State.setSticky_busy (f : StickyFlag) : (s.setSticky f).busy = s.busy := by cases f <;> rfl
@[simp] theorem State.setSticky_en (f : StickyFlag) : (s.setSticky f).en = s.en := by cases f <;> rfl
@[simp] theorem State.setSticky_mode (f : StickyFlag) : (s.setSticky f).mode = s.mode := by cases f <;> rfl
@[simp] theorem State.setSticky_illop (f : StickyFlag) : (s.setSticky f).illop = (s.illop || f == .illop) := by
  cases f <;> simp [State.setSticky]
@[simp] theorem State.setSticky_locked (f : StickyFlag) : (s.setSticky f).locked = (s.locked || f == .locked) := by
  cases f <;> simp [State.setSticky]
@[simp] theorem State.setSticky_cntTxdrop (f : StickyFlag) : (s.setSticky f).cntTxdrop = s.cntTxdrop := by cases f <;> rfl
@[simp] theorem State.setSticky_cntOverrun (f : StickyFlag) : (s.setSticky f).cntOverrun = s.cntOverrun := by cases f <;> rfl
@[simp] theorem State.setSticky_cntRxmiss (f : StickyFlag) : (s.setSticky f).cntRxmiss = s.cntRxmiss := by cases f <;> rfl
@[simp] theorem State.setSticky_trace (f : StickyFlag) : (s.setSticky f).trace = s.trace := by cases f <;> rfl
@[simp] theorem State.setSticky_responses (f : StickyFlag) : (s.setSticky f).responses = s.responses := by cases f <;> rfl
@[simp] theorem State.setSticky_input (f : StickyFlag) : (s.setSticky f).input = s.input := by cases f <;> rfl
@[simp] theorem State.setSticky_ordered (f : StickyFlag) : (s.setSticky f).ordered = s.ordered := by cases f <;> rfl
@[simp] theorem State.setSticky_transportUnknown (f : StickyFlag) : (s.setSticky f).transportUnknown = s.transportUnknown := by cases f <;> rfl

/-! ## `setBuffer` -/

@[simp] theorem State.setBuffer_params (i : BufId) (b : RingBuffer) : (s.setBuffer i b).params = s.params := by
  cases i <;> rfl
@[simp] theorem State.setBuffer_toneIdx (i : BufId) (b : RingBuffer) : (s.setBuffer i b).toneIdx = s.toneIdx := by
  cases i <;> rfl
@[simp] theorem State.setBuffer_chState (i : BufId) (b : RingBuffer) : (s.setBuffer i b).chState = s.chState := by
  cases i <;> rfl
@[simp] theorem State.setBuffer_busy (i : BufId) (b : RingBuffer) : (s.setBuffer i b).busy = s.busy := by
  cases i <;> rfl
@[simp] theorem State.setBuffer_en (i : BufId) (b : RingBuffer) : (s.setBuffer i b).en = s.en := by
  cases i <;> rfl
@[simp] theorem State.setBuffer_mode (i : BufId) (b : RingBuffer) : (s.setBuffer i b).mode = s.mode := by
  cases i <;> rfl
@[simp] theorem State.setBuffer_illop (i : BufId) (b : RingBuffer) : (s.setBuffer i b).illop = s.illop := by
  cases i <;> rfl
@[simp] theorem State.setBuffer_locked (i : BufId) (b : RingBuffer) : (s.setBuffer i b).locked = s.locked := by
  cases i <;> rfl
@[simp] theorem State.setBuffer_cntTxdrop (i : BufId) (b : RingBuffer) : (s.setBuffer i b).cntTxdrop = s.cntTxdrop := by
  cases i <;> rfl
@[simp] theorem State.setBuffer_cntOverrun (i : BufId) (b : RingBuffer) : (s.setBuffer i b).cntOverrun = s.cntOverrun := by
  cases i <;> rfl
@[simp] theorem State.setBuffer_cntRxmiss (i : BufId) (b : RingBuffer) : (s.setBuffer i b).cntRxmiss = s.cntRxmiss := by
  cases i <;> rfl
@[simp] theorem State.setBuffer_trace (i : BufId) (b : RingBuffer) : (s.setBuffer i b).trace = s.trace := by
  cases i <;> rfl
@[simp] theorem State.setBuffer_responses (i : BufId) (b : RingBuffer) : (s.setBuffer i b).responses = s.responses := by
  cases i <;> rfl
@[simp] theorem State.setBuffer_input (i : BufId) (b : RingBuffer) : (s.setBuffer i b).input = s.input := by
  cases i <;> rfl
@[simp] theorem State.setBuffer_ordered (i : BufId) (b : RingBuffer) : (s.setBuffer i b).ordered = s.ordered := by
  cases i <;> rfl
@[simp] theorem State.setBuffer_transportUnknown (i : BufId) (b : RingBuffer) : (s.setBuffer i b).transportUnknown = s.transportUnknown := by
  cases i <;> rfl

@[simp] theorem State.buffer_setBuffer_same (i : BufId) (b : RingBuffer) : (s.setBuffer i b).buffer i = b := by
  cases i <;> rfl

theorem State.buffer_setBuffer_ne {i j : BufId} (b : RingBuffer) (h : j ≠ i) :
    (s.setBuffer i b).buffer j = s.buffer j := by
  cases i <;> cases j <;> first | rfl | exact absurd rfl h

/-! ## `reject` -/

theorem State.reject_illop_eq : s.reject .illop = { s with illop := true, responses := s.responses ++ [0] } := rfl

theorem State.reject_locked_eq : s.reject .locked = { s with locked := true, responses := s.responses ++ [0] } := rfl

end Sys2Proof.Machine
end

