-- ==== Sys2Proof/Laws/Ring.lean ====
section
/-! SUPPORT. What the ring buffer primitives do (spec/40_ring_buffer.md R100 to R105): an insertion keeps the
invariants of R24, and both views of the buffer after an insertion in terms of the buffer before it. -/

namespace Sys2Proof.Machine

/-! ## Indices modulo the capacity -/

/-- The physical slot of newest-first offset `k`, without a negative intermediate. -/
theorem modN_newest {n cur k : Nat} (hk : k < n) :
    modN ((cur : Int) - 1 - (k : Int)) n = (cur + (n - 1 - k)) % n := by
  have h : (((cur + (n - 1 - k) : Nat)) : Int) = ((cur : Int) - 1 - (k : Int)) + (n : Int) := by omega
  have h2 : ((cur : Int) - 1 - (k : Int)) % (n : Int) = (((cur + (n - 1 - k)) % n : Nat) : Int) := by
    rw [Int.natCast_mod, h, Int.add_emod_right]
  rw [modN, h2, Int.toNat_natCast]

theorem succ_mod_of_lt {n c : Nat} (h : c < n) : (c + 1) % n = if c + 1 = n then 0 else c + 1 := by
  split_ifs with e
  · rw [e, Nat.mod_self]
  · exact Nat.mod_eq_of_lt (by omega)

theorem add_mod_of_lt {n a b : Nat} (ha : a < n) (hb : b < n) : (a + b) % n = if a + b < n then a + b else a + b - n := by
  split_ifs with h
  · exact Nat.mod_eq_of_lt h
  · rw [Nat.mod_eq_sub_mod (by omega), Nat.mod_eq_of_lt (by omega)]

/-! ## The invariants of R24 -/

theorem RingBuffer.wf_iff {n : Nat} {b : RingBuffer} : b.wf n = true ↔
    b.cur < n ∧ b.fill ≤ n ∧ (b.fill = n ∨ b.cur = b.fill) ∧ b.slot.wf = true ∧ b.slot.below b.fill = true := by
  simp [RingBuffer.wf, and_assoc]

theorem RingBuffer.empty_wf {n : Nat} (h : 0 < n) : RingBuffer.empty.wf n = true := by
  simp [RingBuffer.wf, RingBuffer.empty, Memory.wf, Memory.below, h]

variable {n : Nat} {b : RingBuffer}

theorem RingBuffer.cur_lt (h : b.wf n = true) : b.cur < n := (RingBuffer.wf_iff.1 h).1

theorem RingBuffer.fill_le (h : b.wf n = true) : b.fill ≤ n := (RingBuffer.wf_iff.1 h).2.1

theorem RingBuffer.slot_wf (h : b.wf n = true) : b.slot.wf = true := (RingBuffer.wf_iff.1 h).2.2.2.1

theorem RingBuffer.slot_below (h : b.wf n = true) : b.slot.below b.fill = true := (RingBuffer.wf_iff.1 h).2.2.2.2

/-! ## Insertion (R102) -/

@[simp] theorem rbPush_cur (v : Sample) : (rbPush n b v).1.cur = (b.cur + 1) % n := rfl

@[simp] theorem rbPush_fill (v : Sample) : (rbPush n b v).1.fill = min n (b.fill + 1) := rfl

@[simp] theorem rbPush_slot (v : Sample) : (rbPush n b v).1.slot = b.slot.write b.cur v := rfl

@[simp] theorem rbPush_valid (v : Sample) : (rbPush n b v).2.1 = (b.fill == n) := rfl

@[simp] theorem rbPush_evicted (v : Sample) :
    (rbPush n b v).2.2 = if b.fill = n then b.slot.read b.cur else 0 := by
  simp [rbPush]

/-- An insertion keeps the invariants of R24. -/
theorem rbPush_wf (v : Sample) (h : b.wf n = true) : (rbPush n b v).1.wf n = true := by
  obtain ⟨h1, h2, h3, h4, h5⟩ := RingBuffer.wf_iff.1 h
  refine RingBuffer.wf_iff.2 ⟨?_, ?_, ?_, ?_, ?_⟩
  · exact Nat.mod_lt _ (by omega)
  · simp only [rbPush_fill]; omega
  · rw [rbPush_fill, rbPush_cur, succ_mod_of_lt h1]
    rcases h3 with h3 | h3
    · left; omega
    · by_cases e : b.cur + 1 = n
      · left; omega
      · right; rw [if_neg e]; omega
  · exact Memory.wf_write _ _ h4
  · rw [rbPush_slot, rbPush_fill]
    exact Memory.below_write _ (Memory.below_mono h5 (by omega)) (by omega)

/-- Exactly the slot the cursor names changes (R102). -/
theorem rbPush_read (v : Sample) (i : Nat) (h : b.wf n = true) :
    (rbPush n b v).1.slot.read i = if i = b.cur then v else b.slot.read i :=
  Memory.read_write _ _ _ (RingBuffer.slot_wf h)

/-! ## Views (R104, R105) -/

theorem rbViewO_zero (h : b.cur < n) : rbViewO n b 0 = b.slot.read b.cur := by
  rw [rbViewO, Nat.add_zero, Nat.mod_eq_of_lt h]

theorem rbViewN_eq {k : Nat} (hk : k < n) : rbViewN n b k = b.slot.read ((b.cur + (n - 1 - k)) % n) := by
  rw [rbViewN, modN_newest hk]

/-- After an insertion the newest element is the inserted one. -/
theorem rbViewN_push_zero (v : Sample) (h : b.wf n = true) : rbViewN n (rbPush n b v).1 0 = v := by
  have hc := RingBuffer.cur_lt h
  rw [rbViewN_eq (by omega), rbPush_read v _ h, rbPush_cur, succ_mod_of_lt hc, if_pos]
  by_cases e : b.cur + 1 = n
  · rw [if_pos e, Nat.mod_eq_of_lt (by omega)]; omega
  · rw [if_neg e, Nat.mod_eq_sub_mod (by omega), Nat.mod_eq_of_lt (by omega)]; omega

/-- After an insertion every other element is one place older. -/
theorem rbViewN_push_succ (v : Sample) {k : Nat} (hk : k + 1 < n) (h : b.wf n = true) :
    rbViewN n (rbPush n b v).1 (k + 1) = rbViewN n b k := by
  have hc := RingBuffer.cur_lt h
  have e1 : (b.cur + (n - 1 - k)) % n = if b.cur + (n - 1 - k) < n then b.cur + (n - 1 - k)
      else b.cur + (n - 1 - k) - n := add_mod_of_lt hc (by omega)
  have e2 : ((b.cur + 1) % n + (n - 1 - (k + 1))) % n = (b.cur + (n - 1 - k)) % n := by
    rw [Nat.mod_add_mod]; congr 1; omega
  rw [rbViewN_eq hk, rbViewN_eq (by omega), rbPush_read v _ h, rbPush_cur, e2, if_neg]
  rw [e1]; split_ifs <;> omega

/-- After an insertion the oldest-first view has moved by one. -/
theorem rbViewO_push (v : Sample) {i : Nat} (hi : i < n) (h : b.wf n = true) :
    rbViewO n (rbPush n b v).1 i = if i + 1 = n then v else rbViewO n b (i + 1) := by
  have hc := RingBuffer.cur_lt h
  have e2 : ((b.cur + 1) % n + i) % n = (b.cur + (i + 1)) % n := by
    rw [Nat.mod_add_mod]; congr 1; omega
  rw [rbViewO, rbPush_read v _ h, rbPush_cur, e2]
  by_cases e : i + 1 = n
  · rw [if_pos e, if_pos]; rw [e, Nat.add_mod_right, Nat.mod_eq_of_lt hc]
  · rw [if_neg e, if_neg, rbViewO]
    rw [add_mod_of_lt hc (by omega)]; split_ifs <;> omega

theorem rbViewO_empty (i : Nat) : rbViewO n RingBuffer.empty i = 0 := rfl

theorem rbViewN_empty (k : Nat) : rbViewN n RingBuffer.empty k = 0 := rfl

/-! ## Engines on a ring buffer -/

theorem firEngine_wf {p : Params} {b : RingBuffer} (x : Sample) (h : b.wf p.nTaps = true) :
    (firEngine p b x).1.wf p.nTaps = true := rbPush_wf x h

theorem dlyEngine_wf {p : Params} {b : RingBuffer} (x : Sample) (h : b.wf p.d = true) :
    (dlyEngine p b x).1.wf p.d = true := rbPush_wf _ h

/-- The FIR sum depends on the buffer only through its newest-first view. -/
theorem firAcc_congr {p : Params} {b b' : RingBuffer} (m : Nat)
    (h : ∀ k, k < m → rbViewN p.nTaps b k = rbViewN p.nTaps b' k) : firAcc p b m = firAcc p b' m := by
  induction m with
  | zero => rfl
  | succ m ih => rw [firAcc, firAcc, ih fun k hk => h k (by omega), h m (by omega)]

end Sys2Proof.Machine
end

