-- ==== Sys2Proof/Laws/Ops.lean ====
section
/-! SUPPORT. What each shared operation of Machine/Flags.lean, Machine/Ops.lean and Machine/Issue.lean can do, said
once, field by field, so that later proofs cite these lemmas and never unfold the operation. -/

namespace Sys2Proof.Machine

variable (s : State)

/-! ## Unit operations (R76) -/

theorem unitOp_unlocked {s : State} (f : State → State) (he : s.en = false) (hb : s.busy = false) :
    unitOp s f = .next (f s) := by
  simp [unitOp, State.lockedOut, he, hb]

theorem unitOp_locked {s : State} (f : State → State) (h : s.en = true ∨ s.busy = true) :
    unitOp s f = .next (s.reject .locked) := by
  simp [unitOp, State.lockedOut, h]

/-- A unit operation is locked or has its own effect, nothing else. -/
theorem unitOp_next {s t : State} {f : State → State} (h : unitOp s f = .next t) :
    ((s.en = true ∨ s.busy = true) ∧ t = s.reject .locked) ∨ (s.en = false ∧ s.busy = false ∧ t = f s) := by
  simp only [unitOp, State.lockedOut, Host.Outcome.next.injEq, Bool.or_eq_true] at h
  split_ifs at h with hl
  · exact .inl ⟨hl, h.symm⟩
  · exact .inr ⟨by simpa using fun e => hl (.inl e), by simpa using fun e => hl (.inr e), h.symm⟩

theorem exec_rbPush_unlocked {s : State} (buf : BufId) (x : Sample) (he : s.en = false) (hb : s.busy = false) :
    exec (.rbPush buf x) s = .next (s.pushOp buf x) :=
  unitOp_unlocked (fun s => s.pushOp buf x) he hb

theorem exec_rbView_unlocked {s : State} (buf : BufId) (ord : ViewOrder) (off : Nat) (he : s.en = false)
    (hb : s.busy = false) : exec (.rbView buf ord off) s = .next (s.viewOp buf ord off) :=
  unitOp_unlocked (fun s => s.viewOp buf ord off) he hb

theorem exec_firStep_unlocked {s : State} (c : Channel) (x : Sample) (he : s.en = false) (hb : s.busy = false) :
    exec (.firStep c x) s = .next (respondOutput (s.firStep c x)) :=
  unitOp_unlocked (fun s => respondOutput (s.firStep c x)) he hb

theorem exec_dlyStep_unlocked {s : State} (c : Channel) (x : Sample) (he : s.en = false) (hb : s.busy = false) :
    exec (.dlyStep c x) s = .next (respondOutput (s.dlyStep c x)) :=
  unitOp_unlocked (fun s => respondOutput (s.dlyStep c x)) he hb

theorem exec_passStep_unlocked {s : State} (c : Channel) (x : Sample) (he : s.en = false) (hb : s.busy = false) :
    exec (.passStep c x) s = .next (respondOutput (s.passStep c x)) :=
  unitOp_unlocked (fun s => respondOutput (s.passStep c x)) he hb

theorem exec_toneStep_unlocked {s : State} (c : Channel) (he : s.en = false) (hb : s.busy = false) :
    exec (.toneStep c) s = .next (respondOutput (s.toneStep c)) :=
  unitOp_unlocked (fun s => respondOutput (s.toneStep c)) he hb

theorem exec_chAdv_unlocked {s : State} (he : s.en = false) (hb : s.busy = false) :
    exec .chAdv s = .next s.advanceOp :=
  unitOp_unlocked (fun s => s.advanceOp) he hb

/-! What each unit operation can do, said once. -/

theorem exec_rbPush_next {s t : State} {buf : BufId} {x : Sample} (h : exec (.rbPush buf x) s = .next t) :
    ((s.en = true ∨ s.busy = true) ∧ t = s.reject .locked) ∨ (s.en = false ∧ s.busy = false ∧ t = s.pushOp buf x) :=
  unitOp_next (f := fun s => s.pushOp buf x) h

theorem exec_rbView_next {s t : State} {buf : BufId} {ord : ViewOrder} {off : Nat} (h : exec (.rbView buf ord off) s = .next t) :
    ((s.en = true ∨ s.busy = true) ∧ t = s.reject .locked) ∨ (s.en = false ∧ s.busy = false ∧ t = s.viewOp buf ord off) :=
  unitOp_next (f := fun s => s.viewOp buf ord off) h

theorem exec_firStep_next {s t : State} {c : Channel} {x : Sample} (h : exec (.firStep c x) s = .next t) :
    ((s.en = true ∨ s.busy = true) ∧ t = s.reject .locked) ∨ (s.en = false ∧ s.busy = false ∧ t = respondOutput (s.firStep c x)) :=
  unitOp_next (f := fun s => respondOutput (s.firStep c x)) h

theorem exec_dlyStep_next {s t : State} {c : Channel} {x : Sample} (h : exec (.dlyStep c x) s = .next t) :
    ((s.en = true ∨ s.busy = true) ∧ t = s.reject .locked) ∨ (s.en = false ∧ s.busy = false ∧ t = respondOutput (s.dlyStep c x)) :=
  unitOp_next (f := fun s => respondOutput (s.dlyStep c x)) h

theorem exec_passStep_next {s t : State} {c : Channel} {x : Sample} (h : exec (.passStep c x) s = .next t) :
    ((s.en = true ∨ s.busy = true) ∧ t = s.reject .locked) ∨ (s.en = false ∧ s.busy = false ∧ t = respondOutput (s.passStep c x)) :=
  unitOp_next (f := fun s => respondOutput (s.passStep c x)) h

theorem exec_toneStep_next {s t : State} {c : Channel} (h : exec (.toneStep c) s = .next t) :
    ((s.en = true ∨ s.busy = true) ∧ t = s.reject .locked) ∨ (s.en = false ∧ s.busy = false ∧ t = respondOutput (s.toneStep c)) :=
  unitOp_next (f := fun s => respondOutput (s.toneStep c)) h

theorem exec_chAdv_next {s t : State} (h : exec .chAdv s = .next t) :
    ((s.en = true ∨ s.busy = true) ∧ t = s.reject .locked) ∨ (s.en = false ∧ s.busy = false ∧ t = s.advanceOp) :=
  unitOp_next (f := fun s => s.advanceOp) h

/-- Every unit operation is a `unitOp` of its own effect. -/
theorem exec_unit {i : Instr} (h : i.isUnit = true) : ∃ f : State → State, ∀ s, exec i s = unitOp s f := by
  cases i <;> first | exact ⟨_, fun _ => rfl⟩ | exact absurd h Bool.false_ne_true

/-- Every operation has a next state in every state (R230). -/
theorem exec_next (i : Instr) (s : State) : ∃ t, exec i s = .next t := by
  cases i <;> exact ⟨_, rfl⟩

/-- Every presented word has a next state in every state (R230). -/
theorem present_next (w : Word) (s : State) : ∃ t, present w s = .next t := by
  unfold present
  split
  · exact exec_next _ _
  · exact ⟨_, rfl⟩

/-! ## The invariant of the machine, part by part -/

theorem State.wf_buffer {s : State} (h : s.wf = true) (b : BufId) :
    (s.buffer b).wf (capacity s.params b) = true := by
  simp only [State.wf, Bool.and_eq_true] at h
  cases b <;> simp only [State.buffer, capacity] <;> tauto

theorem State.wf_fir {s : State} (h : s.wf = true) (c : Channel) : (s.fir.get c).wf s.params.nTaps = true := by
  cases c
  exacts [State.wf_buffer h .firL, State.wf_buffer h .firR]

theorem State.wf_dly {s : State} (h : s.wf = true) (c : Channel) : (s.dly.get c).wf s.params.d = true := by
  cases c
  exacts [State.wf_buffer h .dlyL, State.wf_buffer h .dlyR]

theorem State.wf_tone {s : State} (h : s.wf = true) (c : Channel) : s.toneIdx.get c < s.params.toneLen := by
  simp only [State.wf, Bool.and_eq_true, decide_eq_true_eq] at h
  cases c <;> simp only [Stereo.get] <;> tauto

theorem State.wf_params {s : State} (h : s.wf = true) : s.params.valid = true := by
  simp only [State.wf, Bool.and_eq_true] at h; tauto

/-- A valid tuple has at least one tap, one delay slot and one tone entry (R6). -/
theorem valid_pos {p : Params} (h : p.valid = true) : 0 < p.nTaps ∧ 0 < p.d ∧ 0 < p.toneLen := by
  simp only [Params.valid, Params.tapsOk, Params.delayOk, Params.toneOk, Bool.and_eq_true, decide_eq_true_eq] at h
  omega

/-- Both tables have their stated lengths (R7). -/
theorem valid_lengths {p : Params} (h : p.valid = true) : p.coef.length = p.nTaps ∧ p.tone.length = p.toneLen := by
  simp only [Params.valid, Params.tapsOk, Params.toneOk, Bool.and_eq_true, decide_eq_true_eq, beq_iff_eq] at h
  tauto

/-- The attenuation is a fraction strictly between 0 and 1 (R6). -/
theorem valid_att {p : Params} (h : p.valid = true) :
    1 ≤ p.attShift ∧ p.attShift ≤ 15 ∧ 1 ≤ p.attNum ∧ p.attNum < 2 ^ p.attShift := by
  simp only [Params.valid, Params.attOk, Bool.and_eq_true, decide_eq_true_eq] at h
  tauto

/-! ## The control register -/

@[simp] theorem modeOfBits_modeBits (m : Mode) : modeOfBits (modeBits m) = m := by cases m <;> decide

@[simp] theorem modeBits_modeOfBits (v : BitVec 2) : modeBits (modeOfBits v) = v := by revert v; decide

theorem State.writeCtrl_mode (d : BitVec 16) :
    (s.writeCtrl d).mode = if s.en then s.mode else modeOfBits (d.extractLsb' 1 2) := by
  cases h : s.en <;> simp [State.writeCtrl, h]; split_ifs <;> simp

theorem State.writeCtrl_locked (d : BitVec 16) :
    (s.writeCtrl d).locked = (s.locked || (s.en && modeOfBits (d.extractLsb' 1 2) != s.mode)) := by
  cases h : s.en <;> simp [State.writeCtrl, h]; split_ifs <;> simp_all

@[simp] theorem State.writeCtrl_en (d : BitVec 16) : (s.writeCtrl d).en = d.getLsbD 0 := rfl

/-! ## `writeCtrl` -/

@[simp] theorem State.writeCtrl_params (d : BitVec 16) :
    (s.writeCtrl d).params = s.params := by
  simp only [State.writeCtrl]; split_ifs <;> simp

@[simp] theorem State.writeCtrl_fir (d : BitVec 16) :
    (s.writeCtrl d).fir = s.fir := by
  simp only [State.writeCtrl]; split_ifs <;> simp

@[simp] theorem State.writeCtrl_dly (d : BitVec 16) :
    (s.writeCtrl d).dly = s.dly := by
  simp only [State.writeCtrl]; split_ifs <;> simp

@[simp] theorem State.writeCtrl_toneIdx (d : BitVec 16) :
    (s.writeCtrl d).toneIdx = s.toneIdx := by
  simp only [State.writeCtrl]; split_ifs <;> simp

@[simp] theorem State.writeCtrl_chState (d : BitVec 16) :
    (s.writeCtrl d).chState = s.chState := by
  simp only [State.writeCtrl]; split_ifs <;> simp

@[simp] theorem State.writeCtrl_busy (d : BitVec 16) :
    (s.writeCtrl d).busy = s.busy := by
  simp only [State.writeCtrl]; split_ifs <;> simp

@[simp] theorem State.writeCtrl_illop (d : BitVec 16) :
    (s.writeCtrl d).illop = s.illop := by
  simp only [State.writeCtrl]; split_ifs <;> simp

@[simp] theorem State.writeCtrl_cntTxdrop (d : BitVec 16) :
    (s.writeCtrl d).cntTxdrop = s.cntTxdrop := by
  simp only [State.writeCtrl]; split_ifs <;> simp

@[simp] theorem State.writeCtrl_cntOverrun (d : BitVec 16) :
    (s.writeCtrl d).cntOverrun = s.cntOverrun := by
  simp only [State.writeCtrl]; split_ifs <;> simp

@[simp] theorem State.writeCtrl_cntRxmiss (d : BitVec 16) :
    (s.writeCtrl d).cntRxmiss = s.cntRxmiss := by
  simp only [State.writeCtrl]; split_ifs <;> simp

@[simp] theorem State.writeCtrl_trace (d : BitVec 16) :
    (s.writeCtrl d).trace = s.trace := by
  simp only [State.writeCtrl]; split_ifs <;> simp

@[simp] theorem State.writeCtrl_responses (d : BitVec 16) :
    (s.writeCtrl d).responses = s.responses := by
  simp only [State.writeCtrl]; split_ifs <;> simp

@[simp] theorem State.writeCtrl_input (d : BitVec 16) :
    (s.writeCtrl d).input = s.input := by
  simp only [State.writeCtrl]; split_ifs <;> simp

@[simp] theorem State.writeCtrl_ordered (d : BitVec 16) :
    (s.writeCtrl d).ordered = s.ordered := by
  simp only [State.writeCtrl]; split_ifs <;> simp

@[simp] theorem State.writeCtrl_transportUnknown (d : BitVec 16) :
    (s.writeCtrl d).transportUnknown = s.transportUnknown := by
  simp only [State.writeCtrl]; split_ifs <;> simp

/-! ## `engine` -/

@[simp] theorem State.engine_params (m : Mode) (c : Channel) (x : Sample) :
    (s.engine m c x).1.params = s.params := by
  cases m <;> rfl

@[simp] theorem State.engine_chState (m : Mode) (c : Channel) (x : Sample) :
    (s.engine m c x).1.chState = s.chState := by
  cases m <;> rfl

@[simp] theorem State.engine_busy (m : Mode) (c : Channel) (x : Sample) :
    (s.engine m c x).1.busy = s.busy := by
  cases m <;> rfl

@[simp] theorem State.engine_en (m : Mode) (c : Channel) (x : Sample) :
    (s.engine m c x).1.en = s.en := by
  cases m <;> rfl

@[simp] theorem State.engine_mode (m : Mode) (c : Channel) (x : Sample) :
    (s.engine m c x).1.mode = s.mode := by
  cases m <;> rfl

@[simp] theorem State.engine_illop (m : Mode) (c : Channel) (x : Sample) :
    (s.engine m c x).1.illop = s.illop := by
  cases m <;> rfl

@[simp] theorem State.engine_locked (m : Mode) (c : Channel) (x : Sample) :
    (s.engine m c x).1.locked = s.locked := by
  cases m <;> rfl

@[simp] theorem State.engine_cntTxdrop (m : Mode) (c : Channel) (x : Sample) :
    (s.engine m c x).1.cntTxdrop = s.cntTxdrop := by
  cases m <;> rfl

@[simp] theorem State.engine_cntOverrun (m : Mode) (c : Channel) (x : Sample) :
    (s.engine m c x).1.cntOverrun = s.cntOverrun := by
  cases m <;> rfl

@[simp] theorem State.engine_cntRxmiss (m : Mode) (c : Channel) (x : Sample) :
    (s.engine m c x).1.cntRxmiss = s.cntRxmiss := by
  cases m <;> rfl

@[simp] theorem State.engine_trace (m : Mode) (c : Channel) (x : Sample) :
    (s.engine m c x).1.trace = s.trace := by
  cases m <;> rfl

@[simp] theorem State.engine_responses (m : Mode) (c : Channel) (x : Sample) :
    (s.engine m c x).1.responses = s.responses := by
  cases m <;> rfl

@[simp] theorem State.engine_input (m : Mode) (c : Channel) (x : Sample) :
    (s.engine m c x).1.input = s.input := by
  cases m <;> rfl

@[simp] theorem State.engine_ordered (m : Mode) (c : Channel) (x : Sample) :
    (s.engine m c x).1.ordered = s.ordered := by
  cases m <;> rfl

@[simp] theorem State.engine_transportUnknown (m : Mode) (c : Channel) (x : Sample) :
    (s.engine m c x).1.transportUnknown = s.transportUnknown := by
  cases m <;> rfl

/-! ## `process` -/

@[simp] theorem State.process_params (r : Bool) (x : Sample) :
    (s.process r x).1.params = s.params := by
  cases r <;> simp [State.process]

@[simp] theorem State.process_chState (r : Bool) (x : Sample) :
    (s.process r x).1.chState = s.chState := by
  cases r <;> simp [State.process]

@[simp] theorem State.process_busy (r : Bool) (x : Sample) :
    (s.process r x).1.busy = s.busy := by
  cases r <;> simp [State.process]

@[simp] theorem State.process_en (r : Bool) (x : Sample) :
    (s.process r x).1.en = s.en := by
  cases r <;> simp [State.process]

@[simp] theorem State.process_mode (r : Bool) (x : Sample) :
    (s.process r x).1.mode = s.mode := by
  cases r <;> simp [State.process]

@[simp] theorem State.process_illop (r : Bool) (x : Sample) :
    (s.process r x).1.illop = s.illop := by
  cases r <;> simp [State.process]

@[simp] theorem State.process_locked (r : Bool) (x : Sample) :
    (s.process r x).1.locked = s.locked := by
  cases r <;> simp [State.process]

@[simp] theorem State.process_cntTxdrop (r : Bool) (x : Sample) :
    (s.process r x).1.cntTxdrop = s.cntTxdrop := by
  cases r <;> simp [State.process]

@[simp] theorem State.process_cntOverrun (r : Bool) (x : Sample) :
    (s.process r x).1.cntOverrun = s.cntOverrun := by
  cases r <;> simp [State.process]

@[simp] theorem State.process_cntRxmiss (r : Bool) (x : Sample) :
    (s.process r x).1.cntRxmiss = if r then s.cntRxmiss else satInc s.cntRxmiss := by
  cases r <;> simp [State.process]

@[simp] theorem State.process_trace (r : Bool) (x : Sample) :
    (s.process r x).1.trace = s.trace := by
  cases r <;> simp [State.process]

@[simp] theorem State.process_responses (r : Bool) (x : Sample) :
    (s.process r x).1.responses = s.responses := by
  cases r <;> simp [State.process]

@[simp] theorem State.process_input (r : Bool) (x : Sample) :
    (s.process r x).1.input = s.input := by
  cases r <;> simp [State.process]

@[simp] theorem State.process_ordered (r : Bool) (x : Sample) :
    (s.process r x).1.ordered = s.ordered := by
  cases r <;> simp [State.process]

@[simp] theorem State.process_transportUnknown (r : Bool) (x : Sample) :
    (s.process r x).1.transportUnknown = s.transportUnknown := by
  cases r <;> simp [State.process]

/-! ## `transportWrite` -/

@[simp] theorem State.transportWrite_params (c : Channel) (y : Sample) (r : Bool) :
    (s.transportWrite c y r).params = s.params := by
  cases r <;> simp [State.transportWrite]

@[simp] theorem State.transportWrite_fir (c : Channel) (y : Sample) (r : Bool) :
    (s.transportWrite c y r).fir = s.fir := by
  cases r <;> simp [State.transportWrite]

@[simp] theorem State.transportWrite_dly (c : Channel) (y : Sample) (r : Bool) :
    (s.transportWrite c y r).dly = s.dly := by
  cases r <;> simp [State.transportWrite]

@[simp] theorem State.transportWrite_toneIdx (c : Channel) (y : Sample) (r : Bool) :
    (s.transportWrite c y r).toneIdx = s.toneIdx := by
  cases r <;> simp [State.transportWrite]

@[simp] theorem State.transportWrite_chState (c : Channel) (y : Sample) (r : Bool) :
    (s.transportWrite c y r).chState = s.chState := by
  cases r <;> simp [State.transportWrite]

@[simp] theorem State.transportWrite_busy (c : Channel) (y : Sample) (r : Bool) :
    (s.transportWrite c y r).busy = s.busy := by
  cases r <;> simp [State.transportWrite]

@[simp] theorem State.transportWrite_en (c : Channel) (y : Sample) (r : Bool) :
    (s.transportWrite c y r).en = s.en := by
  cases r <;> simp [State.transportWrite]

@[simp] theorem State.transportWrite_mode (c : Channel) (y : Sample) (r : Bool) :
    (s.transportWrite c y r).mode = s.mode := by
  cases r <;> simp [State.transportWrite]

@[simp] theorem State.transportWrite_illop (c : Channel) (y : Sample) (r : Bool) :
    (s.transportWrite c y r).illop = s.illop := by
  cases r <;> simp [State.transportWrite]

@[simp] theorem State.transportWrite_locked (c : Channel) (y : Sample) (r : Bool) :
    (s.transportWrite c y r).locked = s.locked := by
  cases r <;> simp [State.transportWrite]

@[simp] theorem State.transportWrite_cntTxdrop (c : Channel) (y : Sample) (r : Bool) :
    (s.transportWrite c y r).cntTxdrop = if r then s.cntTxdrop else satInc s.cntTxdrop := by
  cases r <;> simp [State.transportWrite]

@[simp] theorem State.transportWrite_cntOverrun (c : Channel) (y : Sample) (r : Bool) :
    (s.transportWrite c y r).cntOverrun = s.cntOverrun := by
  cases r <;> simp [State.transportWrite]

@[simp] theorem State.transportWrite_cntRxmiss (c : Channel) (y : Sample) (r : Bool) :
    (s.transportWrite c y r).cntRxmiss = s.cntRxmiss := by
  cases r <;> simp [State.transportWrite]

@[simp] theorem State.transportWrite_trace (c : Channel) (y : Sample) (r : Bool) :
    (s.transportWrite c y r).trace = s.trace ++ [.write s.params.lineTx c y] := by
  cases r <;> simp [State.transportWrite]

@[simp] theorem State.transportWrite_responses (c : Channel) (y : Sample) (r : Bool) :
    (s.transportWrite c y r).responses = s.responses := by
  cases r <;> simp [State.transportWrite]

@[simp] theorem State.transportWrite_input (c : Channel) (y : Sample) (r : Bool) :
    (s.transportWrite c y r).input = s.input := by
  cases r <;> simp [State.transportWrite]

@[simp] theorem State.transportWrite_ordered (c : Channel) (y : Sample) (r : Bool) :
    (s.transportWrite c y r).ordered = s.ordered := by
  cases r <;> simp [State.transportWrite]

@[simp] theorem State.transportWrite_transportUnknown (c : Channel) (y : Sample) (r : Bool) :
    (s.transportWrite c y r).transportUnknown = s.transportUnknown := by
  cases r <;> simp [State.transportWrite]

/-! ## Counters (R10 `sat_inc`, R239) -/

/-- A saturating increment adds one, or stays at 65535. -/
theorem satInc_cases (v : BitVec 16) : satInc v = v ∨ (satInc v).toNat = v.toNat + 1 := by
  unfold satInc
  split_ifs with h
  · exact .inl rfl
  · right
    have : v.toNat ≠ 65535 := fun e => h (BitVec.eq_of_toNat_eq (by simpa using e))
    have := v.isLt
    simp only [BitVec.toNat_add]
    have e : (1 : BitVec 16).toNat = 1 := rfl
    rw [e]; omega

/-! ## Response words (R73) -/

theorem responseWord_bit (ok flag : Bool) (d : BitVec 16) (i : Nat) (h : i < 16) :
    (responseWord ok flag d).getLsbD i = d.getLsbD i := by
  simp [responseWord, show i < 31 by omega, show i < 32 by omega, show i < 16 by omega]

theorem responseWord_ok (ok flag : Bool) (d : BitVec 16) : (responseWord ok flag d).getLsbD 31 = ok := by
  cases ok <;> simp [responseWord]

theorem responseWord_flag (ok flag : Bool) (d : BitVec 16) : (responseWord ok flag d).getLsbD 16 = flag := by
  cases flag <;> simp [responseWord]

theorem responseWord_zeros (ok flag : Bool) (d : BitVec 16) : (responseWord ok flag d).extractLsb' 17 14 = 0 := by
  apply BitVec.eq_of_getLsbD_eq
  intro i hi
  cases ok <;> cases flag <;> interval_cases i <;> simp [responseWord]

end Sys2Proof.Machine
end

