-- ==== Sys2Proof/Laws/Step.lean ====
section
/-! SUPPORT. What the engines keep, what the physical layout of a buffer cannot show (spec/20_memory.md R56), and the one
induction over a step: a property that every operation, a rejection and a reset keep is kept by every step. -/

namespace Sys2Proof.Machine

/-! ## The invariant -/

/-- The invariant reads four fields only. -/
theorem State.wf_of_fields {s t : State} (h : s.wf = true) (hp : t.params = s.params) (hf : t.fir = s.fir)
    (hd : t.dly = s.dly) (ht : t.toneIdx = s.toneIdx) : t.wf = true := by
  simpa only [State.wf, hp, hf, hd, ht] using h

/-- Every engine keeps the invariant. -/
theorem State.engine_wf {s : State} (h : s.wf = true) (m : Mode) (c : Channel) (x : Sample) :
    (s.engine m c x).1.wf = true := by
  have hp := valid_pos (State.wf_params h)
  have hf := State.wf_fir h c
  have hd := State.wf_dly h c
  simp only [State.wf, Bool.and_eq_true, decide_eq_true_eq] at h ⊢
  cases m <;> cases c <;>
    simp_all [State.engine, State.passStep, State.firStep, State.dlyStep, State.toneStep, Stereo.set, Stereo.get,
      firEngine_wf, dlyEngine_wf, Nat.mod_lt]

/-! ## Buffers that show the same history -/

/-- The two views of one buffer, index by index. -/
theorem rbViewO_eq_rbViewN {n : Nat} {b : RingBuffer} {k : Nat} (hk : k < n) :
    rbViewO n b k = rbViewN n b (n - 1 - k) := by
  rw [rbViewN_eq (by omega), rbViewO]; congr 3; omega

section
variable {n : Nat} {b b' : RingBuffer} (h : b.wf n = true) (h' : b'.wf n = true) (hs : sameHistory n b b')
include h h' hs

/-- The oldest elements agree. -/
theorem sameHistory_oldest : b.slot.read b.cur = b'.slot.read b'.cur := by
  have c := RingBuffer.cur_lt h
  have c' := RingBuffer.cur_lt h'
  rw [← rbViewO_zero c, ← rbViewO_zero c', rbViewO_eq_rbViewN (by omega), rbViewO_eq_rbViewN (by omega)]
  exact hs.2 _ (by omega)

/-- After one insertion the histories still agree. -/
theorem sameHistory_push (x : Sample) : sameHistory n (rbPush n b x).1 (rbPush n b' x).1 := by
  refine ⟨by simp [hs.1], fun k hk => ?_⟩
  cases k with
  | zero => rw [rbViewN_push_zero x h, rbViewN_push_zero x h']
  | succ k => rw [rbViewN_push_succ x hk h, rbViewN_push_succ x hk h']; exact hs.2 k (by omega)

/-- The evicted Samples agree. -/
theorem sameHistory_evicted (x : Sample) : (rbPush n b x).2 = (rbPush n b' x).2 := by
  have e := sameHistory_oldest h h' hs
  have f := hs.1
  apply Prod.ext <;> simp [e, f]

end

/-- FIR engines on the same history answer alike and keep the same history. -/
theorem sameHistory_fir {p : Params} {b b' : RingBuffer} (x : Sample) (h : b.wf p.nTaps = true)
    (h' : b'.wf p.nTaps = true) (hs : sameHistory p.nTaps b b') :
    sameHistory p.nTaps (firEngine p b x).1 (firEngine p b' x).1 ∧ (firEngine p b x).2 = (firEngine p b' x).2 := by
  have e := sameHistory_push h h' hs x
  exact ⟨e, by simp only [firEngine]; rw [firAcc_congr _ e.2]⟩

/-- Delay engines on the same history answer alike and keep the same history. -/
theorem sameHistory_dly {p : Params} {b b' : RingBuffer} (x : Sample) (h : b.wf p.d = true) (h' : b'.wf p.d = true)
    (hs : sameHistory p.d b b') :
    sameHistory p.d (dlyEngine p b x).1 (dlyEngine p b' x).1 ∧ (dlyEngine p b x).2 = (dlyEngine p b' x).2 := by
  have e : (dlyEngine p b x).2 = (dlyEngine p b' x).2 := by
    simp only [dlyEngine, rbViewO_zero (RingBuffer.cur_lt h), rbViewO_zero (RingBuffer.cur_lt h'),
      sameHistory_oldest h h' hs]
  have f : (dlyEngine p b' x).1 = (rbPush p.d b' (dlyEngine p b x).2).1 := by rw [e]; rfl
  exact ⟨f ▸ sameHistory_push h h' hs _, e⟩

/-! ## One step -/

variable {P : State → Prop}

/-- A property of the state that every operation, a rejection and a reset keep is kept by every arrival. -/
theorem arrive_keeps (he : ∀ i s t, P s → exec i s = .next t → P t) (hr : ∀ s, P s → P (s.reject .illop))
    (hR : ∀ s, P s → P s.resetMachine) {a : Arrival} {s t : State} (hs : P s) (h : arrive a s = .next t) : P t := by
  cases a with
  | word w =>
    simp only [arrive, present] at h
    split at h
    · exact he _ _ _ hs h
    · injection h with h; exact h ▸ hr _ hs
  | hardReset => injection h with h; exact h ▸ hR _ hs

/-- A property that besides does not look at the stream of arrivals is kept by every step. -/
theorem step_keeps (he : ∀ i s t, P s → exec i s = .next t → P t) (hr : ∀ s, P s → P (s.reject .illop))
    (hR : ∀ s, P s → P s.resetMachine) (hi : ∀ s k n, P s → P { s with input := k, ordered := n }) {s t : State}
    (hs : P s) (h : step s = .next t) : P t := by
  unfold step at h
  split_ifs at h
  unfold stepStream at h
  split at h
  · injection h with h; exact h ▸ hs
  · next a s' hk =>
    refine arrive_keeps he hr hR ?_ h
    unfold State.takeArrival at hk
    split at hk
    · cases hk
    all_goals
      simp only [Option.some.injEq, Prod.mk.injEq] at hk
      exact hk.2 ▸ hi _ _ _ hs

end Sys2Proof.Machine
end

