-- ==== Sys2Proof/Tests/Slice0.lean ====
section
/-! SUPPORT. The model's own tests. Every expected value is taken from spec/95_test_vectors.md (named in the docstring)
or worked out by hand from the rule named; and one witness per statement that has hypotheses. -/

namespace Sys2Proof.Tests

open Sys2Proof Sys2Proof.Machine

/-! ## Helpers -/

/-- What a word does to a state; a state the model stops on stays as it is (none of these tests stops). -/
def after (w : Word) (s : State) : State :=
  match present w s with
  | .next t => t
  | .fault _ => s
  | .refused _ => s

/-- The response word to one word. -/
def response (w : Word) (s : State) : Option Word := (after w s).responses.getLast?

/-- T0 with four taps, for the vectors V-RB-1 and V-RB-2. -/
def t4 : Params := { Params.t0 with nTaps := 4, coef := [0, 0, 0, 0] }

/-- T0 with one delay slot, for V-DLY-3. -/
def d1 : Params := { Params.t0 with d := 1 }

/-- T0 with one tap of value -1.0, for V-FIR-3. -/
def minusOne : Params := { Params.t0 with nTaps := 1, coef := [-32768] }

/-- T0 with coefficients whose magnitudes sum to 32767, the bound of R267. -/
def bounded : Params := { Params.t0 with coef := [8192, 16384, -8191] }

/-- Armed in a mode, idle. -/
def armed (m : Mode) : State := { State.resetOf .t0 with en := true, mode := m }

/-- Armed in a mode, with an invocation open. -/
def serving (m : Mode) : State := { armed m with busy := true }

/-! ## Well-formedness: an ill-formed term for each check, and the last value each check takes -/

theorem test_wf_cfgwr_address : (Instr.cfgwr 256 0).wf = false ∧ (Instr.cfgwr 255 0).wf = true := by decide

theorem test_wf_cfgrd_address : (Instr.cfgrd 256).wf = false ∧ (Instr.cfgrd 255).wf = true := by decide

theorem test_wf_view_offset :
    (Instr.rbView .firL .oldestFirst 1048576).wf = false ∧ (Instr.rbView .firL .oldestFirst 1048575).wf = true := by
  decide

/-! ## Valid tuples (R6, R7) -/

theorem test_params_t0 : Params.t0.valid = true ∧ bounded.valid = true := by decide

theorem test_params_taps : { Params.t0 with nTaps := 0, coef := [] }.tapsOk = false ∧
    { Params.t0 with nTaps := 4 }.tapsOk = false := by decide

/-- C10: 44000 is valid, 44100 and 22050 are not. -/
theorem test_params_fs : { Params.t0 with fs := 44000 }.fsOk = true ∧ { Params.t0 with fs := 44100 }.fsOk = false ∧
    { Params.t0 with fs := 22050 }.fsOk = false ∧ { Params.t0 with fs := 4000 }.fsOk = false := by decide

theorem test_params_delay : { Params.t0 with d := 0 }.delayOk = false ∧ d1.delayOk = true := by decide

theorem test_params_attenuation : { Params.t0 with attNum := 8 }.attOk = false ∧
    { Params.t0 with attNum := 0 }.attOk = false ∧ { Params.t0 with attShift := 16 }.attOk = false := by decide

theorem test_params_tone : { Params.t0 with toneLen := 7 }.toneOk = false := by decide

theorem test_params_lines : { Params.t0 with lineTx := 256 }.linesOk = false := by decide

/-! ## Decoding: one word per operation, its fields written out bit by bit from R71, R72, R78 -/

theorem test_decode_nop : decode 0b00000000000000000000000000000000 = .ok .nop := by decide

theorem test_decode_sreset : decode 0b00000001000000000000000000000000 = .ok .sreset := by decide

/-- `CFGWR 5, 0x8001`. -/
theorem test_decode_cfgwr : decode 0b00000010000001011000000000000001 = .ok (.cfgwr 5 0x8001) := by decide

/-- `CFGRD 128`. -/
theorem test_decode_cfgrd : decode 0b00000011100000000000000000000000 = .ok (.cfgrd 128) := by decide

/-- `RB.PUSH 2, -32768` (V-RB-4: `10808000`). -/
theorem test_decode_rbPush : decode 0b00010000100000001000000000000000 = .ok (.rbPush .dlyL (-32768)) := by decide

/-- `RB.VIEW 3, N, 0x80001`. -/
theorem test_decode_rbView : decode 0b00010001111010000000000000000001 = .ok (.rbView .dlyR .newestFirst 0x80001) := by
  decide

/-- `FIR.STEP R, -1000` (V-FIR-6: `2001FC18`). -/
theorem test_decode_firStep : decode 0b00100000000000011111110000011000 = .ok (.firStep .right (-1000)) := by decide

/-- `DLY.STEP L, 1000` (V-DLY-1: `300003E8`). -/
theorem test_decode_dlyStep : decode 0b00110000000000000000001111101000 = .ok (.dlyStep .left 1000) := by decide

/-- `PASS.STEP R, -100` (V-PASS-1: `4001FF9C`). -/
theorem test_decode_passStep : decode 0b01000000000000011111111110011100 = .ok (.passStep .right (-100)) := by decide

/-- `TONE.STEP R` (V-TONE-1: `41010000`). -/
theorem test_decode_toneStep : decode 0b01000001000000010000000000000000 = .ok (.toneStep .right) := by decide

theorem test_decode_chAdv : decode 0b01010000000000000000000000000000 = .ok .chAdv := by decide

theorem test_decode_evt : decode 0b01100000000000000000000000000000 = .ok .evt := by decide

/-- `RUN 1, 0, 1000` (V-RUN-2: `610203E8`). -/
theorem test_decode_run : decode 0b01100001000000100000001111101000 = .ok (.run true false 1000) := by decide

/-- V-HOST-3: unassigned opcodes, by name. -/
theorem test_decode_unassigned : [0x70000000, 0x04000000, 0x12000000, 0x21000000, 0x62000000, 0xFFFFFFFF].all
    (fun w => decode w == .error .unassignedOpcode) = true := by decide

/-- V-HOST-1, V-HOST-2, V-RB-5, V-FIR-8, V-TONE-1, V-CH-1, V-HOST-3: reserved bits set, by name. -/
theorem test_decode_reserved : [0x00000001, 0x03000001, 0x10010005, 0x11100000, 0x20020001, 0x41000001, 0x50000001,
    0x61040000].all (fun w => decode w == .error .reservedBitSet) = true := by decide

/-- The host's numbering: one 32-bit word, bits above it zero. -/
theorem test_decode_table_word : decodeTableWord 32 0x61030064 = some (.run true true 100) ∧
    decodeTableWord 32 0x70000000 = none := by decide

/-! ## The assembler (R81, R82) -/

/-- R80's example, and lines of V-RB-4, P4, V-TONE-1 and V-HOST-2 with their words; a blank line and a comment. -/
theorem test_assemble : assembleProgram ["RB.PUSH 0, -100", "RB.VIEW 2, N, 0 ; newest", "RUN 0, 1, 777", "",
    "; nothing", "CFGRD CNT_RXMISS", "TONE.STEP R", "CFGWR 1, 0xFFFF"] =
    some [0x1000FF9C, 0x11A00000, 0x61010309, 0x03040000, 0x41010000, 0x0201FFFF] := by decide

/-- Operands out of range, a pattern written in decimal, a channel by number, and a missing operand. -/
theorem test_assemble_range : ["FIR.STEP L, 32768", "DLY.STEP L, -32769", "RB.VIEW 0, O, 0x100000", "PASS.STEP 1, 5",
    "CFGWR STATUS, 0", "RUN 1, 1", "HALT"].all (fun l => assembleLine l == none) = true := by decide

/-- `0xFFFF` is the pattern of -1. -/
theorem test_assemble_pattern : assembleLine "FIR.STEP R, 0xFFFF" = some [.firStep .right (-1)] := by decide

/-- P1 to P5: `ARM PASS`, `DISARM FIR`, `ARM DELAY`, `DISARM TONE`, `HANDLE 100`, and a Frame of X7. -/
theorem test_pseudo : assembleProgram ["ARM PASS", "DISARM FIR", "ARM DELAY", "DISARM TONE", "HANDLE 100",
    "FRAME 100, -100"] = some [0x02000001, 0x02000002, 0x02000005, 0x02000006, 0x60000000, 0x61030064, 0x60000000,
      0x61030064, 0x60000000, 0x6103FF9C] := by decide

/-! ## Values (section 2.1) -/

/-- V-Q15. -/
theorem test_q15mul : q15mul 8192 100 = 25 ∧ q15mul 8192 (-1) = -1 ∧ q15mul 16384 (-3) = -2 ∧
    q15mul 8192 32767 = 8191 ∧ q15mul (-32768) 32767 = -32767 ∧ q15mul (-32768) (-32768) = 32768 ∧
    q15mul 32767 (-1) = -1 := by decide

/-- V-ATT. -/
theorem test_att : att .t0 2 = 0 ∧ att .t0 375 = 140 ∧ att .t0 32767 = 12287 ∧ att .t0 (-2) = -1 ∧
    att .t0 (-3) = -2 ∧ att .t0 (-32768) = -12288 := by decide

/-- V-WRAP. -/
theorem test_wrap16 : wrap16 32768 = -32768 ∧ wrap16 45054 = -20482 ∧ wrap16 98298 = 32762 ∧
    wrap16 (-32769) = 32767 ∧ u16 (-100) = 0xFF9C := by decide

/-! ## One step of each operation -/

/-- V-HOST-1. -/
theorem test_nop : response 0x00000000 .reset = some 0x80000000 := by decide

/-- V-HOST-1: `NOP` with a reserved bit. -/
theorem test_nop_reserved : response 0x00000001 .reset = some 0 ∧ (after 0x00000001 .reset).illop = true := by decide

/-- V-RUN-4: a reset inside an invocation; no `T_CLEAR`. -/
theorem test_sreset : (let t := after 0x01000000 (serving .delay)
    (t.busy, t.en, t.mode, t.trace, t.transportUnknown)) = (false, false, .passthrough, [], true) := by decide

/-- V-HOST-2: `CFGWR CTRL, 1` while armed in mode 3 sets `LOCKED` and leaves the mode. -/
theorem test_cfgwr_locked : (let t := after 0x02000001 (armed .tone)
    (t.mode, t.en, t.locked, t.responses)) = (.tone, true, true, [0x80000000]) := by decide

/-- V-HOST-2: `CFGWR CTRL, 8` (reserved bit 3) and `CFGWR 1, 0xFFFF` (read-only). -/
theorem test_cfgwr_illegal : response 0x02000008 .reset = some 0 ∧ (after 0x0201FFFF .reset).illop = true := by decide

/-- P4 step 8: `LOCKED`, `BUSY`. -/
theorem test_cfgrd_status : response 0x03010000 { serving .fir with locked := true } = some 0x8000000A := by decide

/-- V-HOST-2 (`CTRL` 7) and V-HOST-3 (`CFGRD 9`). -/
theorem test_cfgrd_ctrl : response 0x03000000 (armed .tone) = some 0x80000007 ∧
    response 0x03090000 .reset = some 0 := by decide

/-- V-RB-1 row 5: the fifth push evicts 10. -/
theorem test_rbPush_evicts :
    (let s := { State.resetOf t4 with fir := ⟨⟨[(0, 10), (1, 20), (2, 30), (3, 40)], 0, 4⟩, .empty⟩ }
    let t := after 0x10000032 s
    (t.responses, t.fir.left)) = ([0x8001000A], ⟨[(0, 50), (1, 20), (2, 30), (3, 40)], 1, 4⟩) := by decide

/-- V-RB-4: `RB.PUSH 2, -32768` on an empty delay line. -/
theorem test_rbPush_none : (let t := after 0x10808000 .reset
    (t.responses, t.dly.left)) = ([0x80000000], ⟨[(0, -32768)], 1, 1⟩) := by decide

/-- V-RB-2: after pushes 10, 20, 30 into four slots, the views of both orders. -/
theorem test_rbView : (let s := { State.resetOf t4 with fir := ⟨⟨[(0, 10), (1, 20), (2, 30)], 3, 3⟩, .empty⟩ }
    [response 0x11000000 s, response 0x11000003 s, response 0x11200000 s, response 0x11200003 s]) =
      [some 0x80000000, some 0x8000001E, some 0x8000001E, some 0x80000000] := by decide

/-- V-HOST-4: the lock is tested before the offset; V-RB-1 row 13: disarmed, the offset is rejected. -/
theorem test_rbView_order : (let t := after 0x11000004 (armed .fir)
    (t.illop, t.locked)) = (false, true) ∧ (let t := after 0x11000003 State.reset
    (t.illop, t.locked)) = (true, false) := by decide

/-- V-FIR-1 row 4: history 400, -300, 200; input -1 answers 124. -/
theorem test_firStep : response 0x2000FFFF
    { State.reset with fir := ⟨⟨[(0, 400), (1, 200), (2, -300)], 1, 3⟩, .empty⟩ } = some 0x8000007C := by decide

/-- V-FIR-3: the corner -1 times -1. -/
theorem test_firStep_corner : response 0x20008000 (State.resetOf minusOne) = some 0x80008000 := by decide

/-- V-DLY-3: the second 32767 wraps, and the line holds the output. -/
theorem test_dlyStep : (let s := { State.resetOf d1 with dly := ⟨⟨[(0, 32767)], 0, 1⟩, .empty⟩ }
    let t := after 0x30007FFF s
    (t.responses, t.dly.left)) = ([0x8000AFFE], ⟨[(0, -20482)], 0, 1⟩) := by decide

/-- V-DLY-4: the residue -1 of the Right line. -/
theorem test_dlyStep_residue : response 0x30010000
    { State.reset with dly := ⟨.empty, ⟨[(0, -1)], 0, 3⟩⟩ } = some 0x8000FFFF := by decide

/-- V-PASS-1. -/
theorem test_passStep : response 0x4001FF9C .reset = some 0x8000FF9C := by decide

/-- V-TONE-1: entry 7, then the index is back at 0; the other channel's index stays. -/
theorem test_toneStep : (let t := after 0x41000000 { State.reset with toneIdx := ⟨7, 2⟩ }
    (t.responses, t.toneIdx)) = ([0x8000A57E], ⟨0, 2⟩) := by decide

/-- V-CH-1. -/
theorem test_chAdv : response 0x50000000 .reset = some 0x80000001 ∧
    response 0x50000000 { State.reset with chState := .right } = some 0x80000000 := by decide

/-- V-EVT-1: masked; V-EVT-2: accepted. -/
theorem test_evt : response 0x60000000 .reset = some 0x80000000 ∧ response 0x60000000 (armed .fir) = some 0x80010000 ∧
    (after 0x60000000 (armed .fir)).busy = true := by decide

/-- V-EVT-2: overrun; V-EVT-3: the counter stops at 65535. -/
theorem test_evt_overrun : (after 0x60000000 (serving .fir)).cntOverrun = 1 ∧
    (after 0x60000000 { serving .fir with cntOverrun := 65535 }).cntOverrun = 65535 := by decide

/-- P4 step 9: the engine ran, the write was not taken. -/
theorem test_run_drop : (let t := after 0x610203E8 (serving .fir)
    (t.responses, t.cntTxdrop, t.chState, t.busy, t.fir.left, t.trace)) =
      ([0x800000FA], 1, .right, false, ⟨[(0, 1000)], 1, 1⟩, [.read 0 .left, .write 0 .left 250, .clear]) := by decide

/-- P4 step 11: silence for a read that was not ready, on the Right channel. -/
theorem test_run_silence : (let t := after 0x61010309 { serving .fir with chState := .right }
    (t.responses, t.cntRxmiss, t.fir.right, t.trace)) =
      ([0x80010000], 1, .empty, [.read 0 .right, .write 0 .right 0, .clear]) := by decide

/-! ## The step -/

/-- V-RUN-1 as the first word after reset. -/
theorem test_withFetchWord : step (State.reset.withFetchWord 32 0x61030005) =
    .next { State.reset with responses := [0] } := by rfl

/-- The hard reset input answers nothing. -/
theorem test_hardReset : step { armed .tone with input := [.one .hardReset] } = .next .reset := by rfl

/-! ## Witnesses: a concrete instance that meets all hypotheses of a statement together -/

theorem witness_DecodeAfterEncode : (Instr.cfgwr 255 0xFFFF).wf = true ∧
    (Instr.rbView .dlyR .newestFirst 1048575).wf = true := by decide

theorem witness_EncodeAfterDecode : decode 0x61030064 = .ok (.run true true 100) := by decide

theorem witness_OpcodeRowsDisjoint : rowRun ∈ opcodeMap ∧ rowRun.selects 0x61030064 = true := by decide

theorem witness_StepRunsTheDecodedOperation :
    let s := State.reset.withFetchWord 32 0x60000000
    s.params.valid = true ∧ s.input = .one (.word 0x60000000) :: [] ∧ decode 0x60000000 = .ok .evt := by decide

/-- The same with a word that is no operation. -/
theorem witness_StepRunsTheDecodedOperation_error :
    let s := State.reset.withFetchWord 32 0x70000000
    s.params.valid = true ∧ s.input = .one (.word 0x70000000) :: [] ∧
      decode 0x70000000 = .error .unassignedOpcode := by decide

theorem witness_StreamOfWordsRunsInOrder :
    let is : List Instr := [.cfgwr 0 1, .evt]
    let s : State := { State.reset with input := [.one (.word 0x02000001), .one (.word 0x60000000), .one .hardReset] }
    (∀ i ∈ is, i.wf = true) ∧ s.params.valid = true ∧
      s.input = is.map (fun i => Input.one (.word (encode i))) ++ [.one .hardReset] := by decide

theorem witness_TogetherIsEitherOrder :
    let s : State := { State.reset with input := [.together (.word 0x60000000) (.word 0x03010000)] }
    s.params.valid = true ∧ s.input = .together (.word 0x60000000) (.word 0x03010000) :: [] := by decide

theorem witness_OrderOfSimultaneousArrivalsIsVisible : (armed .fir).en = true ∧ (armed .fir).busy = false := by decide

theorem witness_HardResetEqualsSoftReset :
    let s : State := { serving .fir with input := [.one .hardReset] }
    s.params.valid = true ∧ s.input = .one .hardReset :: [] := by decide

theorem witness_WaitsWithNothingPresented : State.reset.params.valid = true ∧ State.reset.input = [] := by decide

theorem witness_NeverHalts : State.reset.params.valid = true ∧
    { State.reset with params := { Params.t0 with d := 0 } }.params.valid = false := by decide

theorem witness_OneResponsePerWord : ∃ t, present 0x70000000 .reset = .next t := ⟨_, rfl⟩

/-- One word for each of the four ways to be illegal, the view at the first offset out of range. -/
theorem witness_RejectsIllopExactlyWhenIllegal_illegal :
    (∀ r ∈ opcodeMap, 0x70000000 &&& r.mask ≠ r.pattern) ∧ decode 0x02010000 = .ok (.cfgwr 1 0) ∧
    decode 0x02000008 = .ok (.cfgwr 0 8) ∧ (8 : BitVec 16).extractLsb' 3 13 ≠ 0 ∧
    decode 0x03050000 = .ok (.cfgrd 5) ∧ decode 0x11000003 = .ok (.rbView .firL .oldestFirst 3) ∧
    State.reset.en = false ∧ State.reset.busy = false ∧ capacity State.reset.params .firL ≤ 3 ∧
    ∃ t, present 0x11000003 State.reset = .next t :=
  ⟨by decide, by decide, by decide, by decide, by decide, by decide, rfl, rfl, by decide, _, rfl⟩

/-- A legal word in a state with `ILLOP` set: the last offset of a view. -/
theorem witness_RejectsIllopExactlyWhenIllegal_legal :
    let s : State := { State.reset with illop := true }
    decode 0x11000002 = .ok (.rbView .firL .oldestFirst 2) ∧ ¬ capacity s.params .firL ≤ 2 ∧
    ∃ t, present 0x11000002 s = .next t ∧ t.illop = true :=
  ⟨by decide, by decide, _, rfl, rfl⟩

theorem witness_LocksExactlyUnitOperations_unit : Instr.isUnit .chAdv = true ∧ (armed .fir).en = true ∧
    (armed .fir).locked = false ∧ ∃ t, exec .chAdv (armed .fir) = .next t ∧ t.locked = true :=
  ⟨rfl, rfl, rfl, _, rfl, rfl⟩

/-- A unit operation while busy and disarmed; and a mode change while armed. -/
theorem witness_LocksExactlyUnitOperations_busy :
    let s : State := { State.reset with busy := true }
    (∃ t, exec (.toneStep .left) s = .next t ∧ t.locked = true) ∧
    ∃ t, exec (.cfgwr 0 5) (armed .fir) = .next t ∧ t.locked = true ∧ (armed .fir).en = true ∧
      (5 : BitVec 16).extractLsb' 1 2 ≠ modeBits (armed .fir).mode :=
  ⟨⟨_, rfl, rfl⟩, _, rfl, rfl, rfl, by decide⟩

theorem witness_CfgwrWritesControl : (7 : BitVec 16).extractLsb' 3 13 = 0 ∧
    modeBits .tone = (7 : BitVec 16).extractLsb' 1 2 := by decide

theorem witness_CfgwrRejectsReadOnlyUnmappedReserved : (1 ≠ 0 ∧ 5 ≠ 0) ∧
    (8 : BitVec 16).extractLsb' 3 13 ≠ 0 := by decide

/-- A word of NOP's opcode with one more bit set. -/
theorem witness_NopOnlyAnswers : (1 : Word).extractLsb' 24 8 = 0 ∧ (1 : Word) ≠ 0 := by decide

/-- The first unmapped address, the last that can be expressed, and the first that cannot. -/
theorem witness_UnmappedAddressesRejected : 4 < 5 ∧ ¬ 255 < 5 ∧ 4 < 255 ∧ ¬ 255 < 255 ∧ 4 < 256 ∧ 255 < 256 := by decide

/-- Also for the statements on views, on the engines' steps and on a channel advance: disarmed and idle. -/
theorem witness_PushInsertsOneSample : State.reset.wf = true ∧ State.reset.en = false ∧ State.reset.busy = false := by
  decide

/-- A full buffer whose next push evicts. -/
theorem witness_PushInsertsOneSample_full :
    let s : State := { State.reset with fir := ⟨⟨[(0, 10), (1, 20), (2, 30)], 0, 3⟩, .empty⟩ }
    s.wf = true ∧ s.en = false ∧ s.busy = false ∧ (s.buffer .firL).fill = capacity s.params .firL := by decide

/-- The last offset in range and the first out of range. -/
theorem witness_ViewReadsOneElement : State.reset.en = false ∧ State.reset.busy = false ∧
    2 < capacity State.reset.params .dlyR ∧ capacity State.reset.params .dlyR ≤ 3 := by decide

theorem witness_ViewsAreMirrorImages : 0 < 1 ∧ 2 < 3 := by decide

/-- Exactly as many Samples as slots; and fewer, at the last reset zero and at the first Sample. -/
theorem witness_ViewShowsTheLastInserted : let ps : List Sample := [10, 20]
    (1 < 2 ∧ 2 ≤ ps.length) ∧ (0 < 3 ∧ ps.length < 3 ∧ 0 < 3 - ps.length) ∧ (1 < 3 ∧ 3 - ps.length ≤ 1) := by decide

/-- Two layouts of one history: 10, 20, 30 with the cursor at 0 and at 1. -/
theorem witness_PhysicalLayoutUnobservable :
    let s : State := { State.reset with fir := ⟨⟨[(0, 10), (1, 20), (2, 30)], 0, 3⟩, .empty⟩ }
    let s' : State := { State.reset with fir := ⟨⟨[(0, 30), (1, 10), (2, 20)], 1, 3⟩, .empty⟩ }
    s ≠ s' ∧ s.wf = true ∧ s'.wf = true ∧ sameView s s' ∧ (∃ t, exec (.firStep .left 5) s = .next t) ∧
      ∃ t, exec (.firStep .left 5) s' = .next t := by
  refine ⟨by decide, by decide, by decide, ?_, ⟨_, rfl⟩, _, rfl⟩
  unfold sameView sameHistory
  decide

theorem witness_DirectPushIsEngineHistory : State.reset.en = false ∧ State.reset.busy = false ∧
    (∃ t, exec (.rbPush .firL 5) .reset = .next t) ∧ (∃ t, exec (.rbPush .firR 5) .reset = .next t) ∧
    (∃ t, exec (.rbPush .dlyL (State.reset.dlyStep .left 5).2) .reset = .next t) ∧
    ∃ t, exec (.rbPush .dlyR (State.reset.dlyStep .right 5).2) .reset = .next t :=
  ⟨rfl, rfl, ⟨_, rfl⟩, ⟨_, rfl⟩, ⟨_, rfl⟩, _, rfl⟩

/-- Both sides of the corner: two Samples that reach 32768. -/
theorem witness_Q15MulRange : (-32768 : Sample).toInt = -32768 ∧ q15mul (-32768) (-32768) = 32768 := by decide

/-- For FirStepConvolves and DelayStepFeedsBack: a full Right buffer with the cursor inside it. -/
theorem witness_FirStepConvolves :
    let b : RingBuffer := ⟨[(0, 400), (1, 200), (2, -300)], 1, 3⟩
    let s : State := { State.reset with fir := ⟨.empty, b⟩, dly := ⟨.empty, b⟩ }
    s.wf = true ∧ s.en = false ∧ s.busy = false := by decide

theorem witness_DelayStepFeedsBack : State.reset.wf = true ∧ State.reset.en = false ∧ State.reset.busy = false := by
  decide

/-- The last of more inputs than taps, and the first. -/
theorem witness_FirIsConvolutionFromReset : Params.t0.valid = true ∧ 0 < ([1, 2, 3, 4] : List Sample).length ∧
    3 < ([1, 2, 3, 4] : List Sample).length := by decide

/-- Both bounds themselves. -/
theorem witness_FirDoesNotWrapWithinBound : coefMagnitude bounded bounded.nTaps = 32767 ∧
    coefMagnitude bounded bounded.nTaps ≤ 32767 ∧ coefMagnitude .t0 Params.t0.nTaps = 32768 ∧
    coefMagnitude .t0 Params.t0.nTaps ≤ 32768 := by decide

/-- Before the delay and at it. -/
theorem witness_DelayRecurrenceFromReset : Params.t0.valid = true ∧ 2 < ([1, 0, 0, 0] : List Sample).length ∧
    ¬ Params.t0.d ≤ 2 ∧ 3 < ([1, 0, 0, 0] : List Sample).length ∧ Params.t0.d ≤ 3 := by decide

theorem witness_ImpulseEchoesAtMultiplesOfD : Params.t0.valid = true ∧ 6 ≤ 6 ∧ Params.t0.d ∣ 6 ∧ 5 ≤ 6 ∧
    ¬ Params.t0.d ∣ 5 := by decide

theorem witness_AttenuationIsShiftAndAdd : Params.t0.valid = true := by decide

/-- Both residues; the first output, and the last of more than one turn of the line. -/
theorem witness_NegativeResidueNeverDecays : let b : RingBuffer := ⟨[(0, -1), (2, 5)], 0, 3⟩
    let b' : RingBuffer := ⟨[(0, 7), (1, 1)], 1, 3⟩
    Params.t0.valid = true ∧ b.wf Params.t0.d = true ∧ b.slot.read b.cur = -1 ∧ 0 * Params.t0.d < 1 ∧
      2 * Params.t0.d < 7 ∧ b'.wf Params.t0.d = true ∧ b'.slot.read b'.cur = 1 := by decide

theorem witness_PassStepAnswersItsSample : State.reset.en = false ∧ State.reset.busy = false := by decide

/-- At the last entry of the table. -/
theorem witness_ToneStepWalksTheTable : let s : State := { State.reset with toneIdx := ⟨7, 0⟩ }
    s.wf = true ∧ s.en = false ∧ s.busy = false := by decide

theorem witness_TonePlayerIsCircular : State.reset.wf = true ∧ 9 < 10 := by decide

theorem witness_ChAdvToggles : let s : State := { State.reset with chState := .right }
    State.reset.en = false ∧ State.reset.busy = false ∧ State.reset.chState = .left ∧ s.en = false ∧ s.busy = false ∧
      s.chState = .right := by decide

theorem witness_EventIsMaskedCountedOrAccepted : State.reset.en = false ∧
    ((serving .fir).en = true ∧ (serving .fir).busy = true) ∧ ((armed .fir).en = true ∧ (armed .fir).busy = false) := by
  decide

theorem witness_RunServesTheOpenInvocation : (serving .passthrough).busy = true ∧ (serving .fir).busy = true ∧
    (serving .delay).busy = true ∧ (serving .tone).busy = true := by decide

theorem witness_RunWithoutInvocationDoesNothing : State.reset.busy = false := by decide

theorem witness_PassthroughHandsTheSampleOn : let s := armed .passthrough
    s.en = true ∧ s.busy = false ∧ s.mode = .passthrough := by decide

theorem witness_StepKeepsTheInvariant : let s : State := (armed .fir).withFetchWord 32 0x60000000
    s.wf = true ∧ ∃ t, step s = .next t := ⟨by decide, _, rfl⟩

theorem witness_ResetHasTheInvariant : Params.t0.valid = true := by decide

theorem witness_ParametersNeverChange : ∃ t, step (State.reset.withFetchWord 32 0x01000000) = .next t := ⟨_, rfl⟩

/-- An invocation served; and a word that serves none. -/
theorem witness_TraceGrowsByWholeInvocations : (∃ t, present 0x61030064 (serving .fir) = .next t) ∧
    ∃ t, present 0x61030064 (armed .fir) = .next t := ⟨⟨_, rfl⟩, _, rfl⟩

theorem witness_InvocationsAlternate :
    let is : List Instr := [.evt, .run true true 1, .evt, .run false false 0]
    (∀ i ∈ is, i ≠ .chAdv ∧ i ≠ .sreset) ∧ ∃ t, execAll is (armed .fir) = .next t := ⟨by decide, _, rfl⟩

/-- An even number of invocations, for the last clause. -/
theorem witness_AlternationBalancesChannels : ([1, 2] : List Sample).length % 2 = 0 := by decide

/-- An event that opens; a RUN and a reset that close. -/
theorem witness_OnlyEventOpensOnlyRunOrResetCloses :
    (∃ t, exec .evt (armed .fir) = .next t ∧ (armed .fir).busy = false ∧ t.busy = true) ∧
    (∃ t, exec (.run true true 1) (serving .fir) = .next t ∧ (serving .fir).busy = true ∧ t.busy = false) ∧
    ∃ t, exec .sreset (serving .fir) = .next t ∧ (serving .fir).busy = true ∧ t.busy = false :=
  ⟨⟨_, rfl, rfl, rfl⟩, ⟨_, rfl, rfl, rfl⟩, _, rfl, rfl, rfl⟩

/-- Both flags set, and each counter moved by its cause, from the last value it moves from. -/
theorem witness_CountersCountTheirCauseOnly :
    let s : State := { serving .fir with illop := true, locked := true, cntTxdrop := 65534, cntRxmiss := 65534 }
    Instr.run false false 0 ≠ .sreset ∧ s.illop = true ∧ s.locked = true ∧
      ∃ t, exec (.run false false 0) s = .next t ∧ t.cntTxdrop.toNat = s.cntTxdrop.toNat + 1 ∧
        t.cntRxmiss.toNat = s.cntRxmiss.toNat + 1 :=
  ⟨by decide, rfl, rfl, _, rfl, by decide, by decide⟩

theorem witness_ModeChangesOnlyWhileDisarmed : (∃ t, exec (.cfgwr 0 2) .reset = .next t ∧ t.mode ≠ State.reset.mode) ∧
    ∃ t, exec .sreset (armed .fir) = .next t ∧ t.mode ≠ (armed .fir).mode :=
  ⟨⟨_, rfl, by decide⟩, _, rfl, by decide⟩

/-- Armed; and busy after a disarm. -/
theorem witness_ForegroundShutOutWhileArmedOrBusy :
    Instr.agent (.firStep .left 1) = .foreground ∧ Instr.firStep .left 1 ≠ .sreset ∧ (armed .fir).en = true ∧
    (∃ t, exec (.firStep .left 1) (armed .fir) = .next t) ∧
    ∃ t, exec (.cfgwr 0 2) { State.reset with busy := true } = .next t := by
  refine ⟨rfl, by decide, rfl, ⟨_, rfl⟩, _, rfl⟩

/-- A unit operation while armed is not admitted, nor is a RUN with no invocation. -/
theorem witness_AgentsStepTheirOwnOperations : (armed .fir).admits (.firStep .left 1) = false ∧
    State.reset.admits (.run true true 1) = false ∧ agentStep .eventSource .evt .reset ≠ none := by
  refine ⟨by decide, by decide, ?_⟩
  intro h; cases h

theorem witness_SamplingFrequencyEntersNoOperation : ∃ t, exec (.dlyStep .left 1) .reset = .next t := ⟨_, rfl⟩

/-- The lowest and the highest legal frequency. -/
theorem witness_ValidSamplingFrequencies : { Params.t0 with fs := 8000 }.valid = true ∧
    { Params.t0 with fs := 48000 }.valid = true := by decide

end Sys2Proof.Tests
end

section
/-! SUPPORT. The statements about the scope of the model (spec/00_scope.md): who steps what (R13), that the sampling
frequency enters no operation (R8), and which sampling frequencies a valid tuple may have (R6, R7). -/

namespace Sys2Proof

/-! ## Valid sampling frequencies (R6, R7) -/

/-- `FS` is legal when it is one of the eleven multiples of 4000 from 8000 to 48000. -/
theorem Params.fsOk_iff {p : Params} : p.fsOk = true ↔ ∃ k, p.fs = 4000 * k ∧ 2 ≤ k ∧ k ≤ 12 := by
  simp only [Params.fsOk, Bool.and_eq_true, beq_iff_eq, decide_eq_true_eq]
  constructor
  · rintro ⟨⟨hmod, hlow⟩, hhigh⟩
    exact ⟨p.fs / 4000, by omega⟩
  · rintro ⟨k, hk, hlow, hhigh⟩
    omega

theorem Params.fsOk_of_valid {p : Params} (h : p.valid = true) : p.fsOk = true := by
  simp only [Params.valid, Bool.and_eq_true] at h
  tauto

/-- No check of a valid tuple but that of `FS` reads `FS`. -/
theorem Params.valid_set_fs {p : Params} (h : p.valid = true) (f : Nat) :
    { p with fs := f }.valid = { p with fs := f }.fsOk := by
  simp only [Params.valid, Bool.and_eq_true] at h
  obtain ⟨⟨⟨⟨⟨htaps, -⟩, hdelay⟩, hatt⟩, htone⟩, hlines⟩ := h
  change (p.tapsOk && _ && p.delayOk && p.attOk && p.toneOk && p.linesOk) = _
  simp [htaps, hdelay, hatt, htone, hlines]

/-- Settles O59: the `k` is `fs / 4000`, and another `FS` in a valid tuple is judged by its own check alone. -/
theorem validSamplingFrequencies : Obligations.ValidSamplingFrequencies := by
  intro p h
  obtain ⟨k, hk, hlow, hhigh⟩ := Params.fsOk_iff.mp (Params.fsOk_of_valid h)
  refine ⟨k, hk, hlow, hhigh, ?_, ?_, ?_⟩ <;> simp [Params.valid_set_fs h, Params.fsOk]

namespace Machine

/-! ## The steps of the agents (R13, R190, R238) -/

theorem agentStep_eq_none_iff {a : Agent} {i : Instr} {s : State} :
    agentStep a i s = none ↔ i.agent ≠ a ∨ (a = .handler ∧ s.busy = false) := by
  simp only [agentStep, ite_eq_right_iff, reduceCtorEq, imp_false, not_and_or, Classical.not_imp, Bool.not_eq_true]

theorem eq_exec_of_agentStep {a : Agent} {i : Instr} {s : State} {o : Host.Outcome State Fault Refusal}
    (h : agentStep a i s = some o) : o = exec i s := by
  unfold agentStep at h
  split at h
  · exact (Option.some.inj h).symm
  · cases h

/-- What is not admitted: a unit operation while armed or busy, and a `RUN` while no invocation is open. -/
theorem State.admits_eq_false {s : State} {i : Instr} (h : s.admits i = false) :
    (i.isUnit = true ∧ (s.en = true ∨ s.busy = true)) ∨ (∃ rxr txr x, i = .run rxr txr x) ∧ s.busy = false := by
  cases hi : i.agent <;> simp only [State.admits, hi] at h
  case foreground => left; simpa [State.lockedOut, or_iff_not_imp_left] using h
  case eventSource => cases h
  case handler =>
    cases i <;> cases hi
    exact .inr ⟨⟨_, _, _, rfl⟩, h⟩

theorem exec_run_idle {s : State} (hb : s.busy = false) (rxr txr : Bool) (x : Sample) :
    exec (.run rxr txr x) s = .next (s.answer 0) := by
  simp [exec, execRun, hb]

/-- Settles O57: what is not admitted is a locked unit operation or a `RUN` with nothing to serve. -/
theorem agentsStepTheirOwnOperations : Obligations.AgentsStepTheirOwnOperations := by
  intro a i s
  refine ⟨agentStep_eq_none_iff, fun o => eq_exec_of_agentStep, fun h => ?_⟩
  obtain ⟨hunit, hlock⟩ | ⟨⟨rxr, txr, x, rfl⟩, hb⟩ := State.admits_eq_false h
  · obtain ⟨effect, heffect⟩ := exec_unit hunit
    exact ⟨_, (heffect s).trans (unitOp_locked effect hlock), rfl⟩
  · exact ⟨_, exec_run_idle hb rxr txr x, rfl⟩

/-! ## The sampling frequency enters no operation (R8) -/

/-- The same state, built for another sampling frequency. -/
def State.withFs (s : State) (f : Nat) : State := { s with params := { s.params with fs := f } }

/-- An effect on the state into which the sampling frequency does not enter. -/
def FsFree (effect : State → State) : Prop := ∀ s f, effect (s.withFs f) = (effect s).withFs f

/-- A choice between two such effects is one too, when the sampling frequency does not enter the choice. -/
theorem FsFree.ite {c : State → Prop} [DecidablePred c] {a b : State → State}
    (hc : ∀ s f, c (s.withFs f) ↔ c s) (ha : FsFree a) (hb : FsFree b) :
    FsFree fun s => if c s then a s else b s := by
  intro s f
  by_cases h : c s
  · simp only [hc, h, if_true, ha s f]
  · simp only [hc, h, if_false, hb s f]

theorem fsFree_respond (flag : Bool) (data : BitVec 16) : FsFree fun s => s.respond flag data := fun _ _ => rfl

theorem fsFree_reject (flag : StickyFlag) : FsFree fun s => s.reject flag := by
  cases flag <;> exact fun _ _ => rfl

/-! The engines, each with its output beside the state. -/

/-- The FIR sum reads the coefficients and the number of taps, and no other parameter. -/
theorem firAcc_set_fs (p : Params) (f : Nat) (b : RingBuffer) (m : Nat) :
    firAcc { p with fs := f } b m = firAcc p b m := by
  induction m with
  | zero => rfl
  | succ m ih => simp only [firAcc, ih]

theorem State.firStep_withFs (s : State) (f : Nat) (c : Channel) (x : Sample) :
    (s.withFs f).firStep c x = ((s.firStep c x).1.withFs f, (s.firStep c x).2) := by
  simp only [State.firStep, State.withFs, firEngine, firAcc_set_fs]

theorem State.engine_withFs (s : State) (f : Nat) (m : Mode) (c : Channel) (x : Sample) :
    (s.withFs f).engine m c x = ((s.engine m c x).1.withFs f, (s.engine m c x).2) := by
  cases m
  case fir => exact s.firStep_withFs f c x
  all_goals rfl

theorem State.process_withFs (s : State) (f : Nat) (rxr : Bool) (x : Sample) :
    (s.withFs f).process rxr x = ((s.process rxr x).1.withFs f, (s.process rxr x).2) := by
  cases rxr
  case true => exact s.engine_withFs f s.mode s.chState x
  case false => rfl

/-! The effects of the operations. -/

theorem fsFree_firStep (c : Channel) (x : Sample) : FsFree fun s => respondOutput (s.firStep c x) :=
  fun s f => congrArg respondOutput (s.firStep_withFs f c x)

theorem fsFree_pushOp (buf : BufId) (x : Sample) : FsFree fun s => s.pushOp buf x := by
  cases buf <;> exact fun _ _ => rfl

/-- The offset is checked against a capacity, which is not `FS`. -/
theorem fsFree_viewOp (buf : BufId) (ord : ViewOrder) (off : Nat) : FsFree fun s => s.viewOp buf ord off := by
  cases buf <;> exact .ite (fun _ _ => .rfl) (fun _ _ => rfl) (fsFree_reject .illop)

/-- The write of `EN` follows a choice by `EN` and the mode, and neither looks at `FS`. -/
theorem fsFree_writeCtrl (data : BitVec 16) : FsFree fun s => s.writeCtrl data := by
  have hmode : FsFree fun s =>
      if s.en then (if modeOfBits (data.extractLsb' 1 2) = s.mode then s else s.setSticky .locked)
      else { s with mode := modeOfBits (data.extractLsb' 1 2) } :=
    .ite (fun _ _ => .rfl) (.ite (fun _ _ => .rfl) (fun _ _ => rfl) (fun _ _ => rfl)) (fun _ _ => rfl)
  exact fun s f => congrArg (fun t : State => { t with en := data.getLsbD 0 }) (hmode s f)

theorem State.transportWrite_withFs (s : State) (f : Nat) (c : Channel) (y : Sample) (txr : Bool) :
    (s.withFs f).transportWrite c y txr = (s.transportWrite c y txr).withFs f := by
  cases txr <;> rfl

theorem fsFree_handlerBody (rxr txr : Bool) (x : Sample) : FsFree fun s => s.handlerBody rxr txr x := by
  intro s f
  have hchannel : (s.withFs f).chState = s.chState := rfl
  have hline : (s.withFs f).params.lineRx = s.params.lineRx := rfl
  have hemit (e : TransportEvent) : (s.withFs f).emit e = (s.emit e).withFs f := rfl
  simp only [State.handlerBody, hchannel, hline, hemit, State.process_withFs, State.transportWrite_withFs]
  rfl

/-- The lock reads `EN` and `busy` only, so a unit operation is as free of `FS` as its effect. -/
theorem FsFree.unitOp {effect : State → State} (h : FsFree effect) :
    ∃ e, FsFree e ∧ ∀ s, Machine.unitOp s effect = .next (e s) :=
  ⟨fun s => if s.lockedOut then s.reject .locked else effect s,
    .ite (fun _ _ => .rfl) (fsFree_reject .locked) h, fun _ => rfl⟩

/-- Every operation is an effect on the state into which the sampling frequency does not enter. -/
theorem exec_fsFree (i : Instr) : ∃ e, FsFree e ∧ ∀ s, exec i s = .next (e s) := by
  cases i
  case nop => exact ⟨_, fsFree_respond false 0, fun _ => rfl⟩
  case sreset => exact ⟨fun s => s.resetMachine.respond false 0, fun _ _ => rfl, fun _ => rfl⟩
  case cfgwr addr data =>
    refine ⟨_, ?_, fun _ => rfl⟩
    exact .ite (fun _ _ => .rfl) (fun s f => congrArg (State.respond · false 0) (fsFree_writeCtrl data s f))
      (fsFree_reject .illop)
  case cfgrd addr =>
    refine ⟨_, fun s f => ?_, fun _ => rfl⟩
    have hreg : (s.withFs f).reg addr = s.reg addr := rfl
    rw [hreg]
    cases s.reg addr <;> rfl
  case rbPush buf x => exact (fsFree_pushOp buf x).unitOp
  case rbView buf ord off => exact (fsFree_viewOp buf ord off).unitOp
  case firStep c x => exact (fsFree_firStep c x).unitOp
  case dlyStep c x => exact FsFree.unitOp fun _ _ => rfl
  case passStep c x => exact FsFree.unitOp fun _ _ => rfl
  case toneStep c => exact FsFree.unitOp fun _ _ => rfl
  case chAdv => exact FsFree.unitOp fun _ _ => rfl
  case evt =>
    refine ⟨_, ?_, fun _ => rfl⟩
    exact .ite (fun _ _ => .rfl) (.ite (fun _ _ => .rfl) (fun _ _ => rfl) (fun _ _ => rfl)) (fsFree_respond false 0)
  case run rxr txr x =>
    refine ⟨_, ?_, fun _ => rfl⟩
    exact .ite (fun _ _ => .rfl) (fsFree_handlerBody rxr txr x) (fun _ _ => rfl)

/-- Settles O58: every operation is an effect that commutes with a change of the sampling frequency. -/
theorem samplingFrequencyEntersNoOperation : Obligations.SamplingFrequencyEntersNoOperation := by
  intro i s t f h
  obtain ⟨e, hfree, hexec⟩ := exec_fsFree i
  obtain rfl : e s = t := Host.Outcome.next.inj ((hexec s).symm.trans h)
  exact (hexec _).trans (congrArg Host.Outcome.next (hfree s f))

end Machine

end Sys2Proof
end

section
/-! SUPPORT. The statements about the whole state (spec/10_state.md): what every operation may do to the state, said once
as the relation `OpEffect`; from it the invariant of R24 and R26, the constant parameters of R25, the opening and closing
of an invocation (R28), the mode (R30), and the counters and sticky flags (R32 to R36). -/

namespace Sys2Proof.Machine

/-! ## The invariant, part by part -/

theorem State.wf_iff {s : State} : s.wf = true ↔ s.params.valid = true ∧
    (∀ b, (s.buffer b).wf (capacity s.params b) = true) ∧ ∀ c, s.toneIdx.get c < s.params.toneLen := by
  refine ⟨fun h => ⟨State.wf_params h, State.wf_buffer h, State.wf_tone h⟩, fun ⟨hvalid, hbuf, htone⟩ => ?_⟩
  simp only [State.wf, Bool.and_eq_true, decide_eq_true_eq]
  exact ⟨⟨⟨⟨⟨⟨hvalid, hbuf .firL⟩, hbuf .firR⟩, hbuf .dlyL⟩, hbuf .dlyR⟩, htone .left⟩, htone .right⟩

/-- Right after reset every buffer is empty and every tone index is 0, so it is enough that no capacity is 0. -/
theorem State.resetOf_wf {p : Params} (h : p.valid = true) : (State.resetOf p).wf = true := by
  obtain ⟨htaps, hdelay, htone⟩ := valid_pos h
  refine State.wf_iff.2 ⟨h, fun b => ?_, fun c => ?_⟩
  · cases b
    exacts [RingBuffer.empty_wf htaps, RingBuffer.empty_wf htaps, RingBuffer.empty_wf hdelay, RingBuffer.empty_wf hdelay]
  · cases c <;> exact htone

/-- Settles O48: empty ring buffers meet the invariant of R24 at every capacity but 0. -/
theorem resetHasTheInvariant : Obligations.ResetHasTheInvariant := fun _ => State.resetOf_wf

theorem State.resetMachine_wf {s : State} (h : s.wf = true) : s.resetMachine.wf = true :=
  State.wf_of_fields (State.resetOf_wf (State.wf_params h)) rfl rfl rfl rfl

theorem State.setBuffer_wf {s : State} (h : s.wf = true) {i : BufId} {b : RingBuffer}
    (hb : b.wf (capacity s.params i) = true) : (s.setBuffer i b).wf = true := by
  obtain ⟨hvalid, hbuf, htone⟩ := State.wf_iff.1 h
  refine State.wf_iff.2 ⟨by simpa using hvalid, fun j => ?_, by simpa using htone⟩
  rw [State.setBuffer_params]
  by_cases hj : j = i
  · subst hj; rwa [State.buffer_setBuffer_same]
  · rw [State.buffer_setBuffer_ne s b hj]; exact hbuf j

theorem State.process_wf {s : State} (h : s.wf = true) (rxr : Bool) (x : Sample) :
    (s.process rxr x).1.wf = true := by
  cases rxr
  case true => exact State.engine_wf h s.mode s.chState x
  case false => exact State.wf_of_fields h rfl rfl rfl rfl

/-! ## What an operation may do -/

/-- The state at the end of an invocation, before its answer (R185): the handler body without `respond`. -/
def State.serve (s : State) (rxr txr : Bool) (x : Sample) : State :=
  let r := (s.emit (.read s.params.lineRx s.chState)).process rxr x
  ((r.1.transportWrite s.chState r.2 txr).chAdvance).endInvocation

/-- `OpEffect s i u`: operation `i` may take `s` to `u`, the state that it then answers from. -/
inductive OpEffect (s : State) : Instr → State → Prop where
  | unchanged (i : Instr) : OpEffect s i s
  | flagged (i : Instr) (f : StickyFlag) : OpEffect s i (s.setSticky f)
  | reset : OpEffect s .sreset s.resetMachine
  | control (data : BitVec 16) : OpEffect s (.cfgwr 0 data) (s.writeCtrl data)
  | pushed (buf : BufId) (x : Sample) (he : s.en = false) (hb : s.busy = false) :
      OpEffect s (.rbPush buf x) (s.setBuffer buf (rbPush (capacity s.params buf) (s.buffer buf) x).1)
  | stepped (i : Instr) (m : Mode) (c : Channel) (x : Sample) (he : s.en = false) (hb : s.busy = false) :
      OpEffect s i (s.engine m c x).1
  | advanced (he : s.en = false) (hb : s.busy = false) : OpEffect s .chAdv s.chAdvance
  | overran (he : s.en = true) (hb : s.busy = true) : OpEffect s .evt s.countOverrun
  | opened (he : s.en = true) (hb : s.busy = false) : OpEffect s .evt s.acceptEvent
  | served (rxr txr : Bool) (x : Sample) (hb : s.busy = true) : OpEffect s (.run rxr txr x) (s.serve rxr txr x)

/-- A unit operation is refused with `LOCKED` while armed or busy (R76), so only its unlocked effect is left to show. -/
theorem exec_unit_effect {i : Instr} {s : State} (hi : i.isUnit = true)
    (hfree : s.en = false → s.busy = false → ∃ u w, OpEffect s i u ∧ exec i s = .next (u.answer w)) :
    ∃ u w, OpEffect s i u ∧ exec i s = .next (u.answer w) := by
  by_cases hlock : s.en = true ∨ s.busy = true
  · obtain ⟨f, hf⟩ := exec_unit hi
    exact ⟨_, 0, .flagged i .locked, (hf s).trans (unitOp_locked f hlock)⟩
  · simp only [not_or, Bool.not_eq_true] at hlock
    exact hfree hlock.1 hlock.2

/-- Every operation has one of the effects of `OpEffect`, and then answers. -/
theorem exec_effect (i : Instr) (s : State) : ∃ u w, OpEffect s i u ∧ exec i s = .next (u.answer w) := by
  cases i
  case nop => exact ⟨s, _, .unchanged _, rfl⟩
  case sreset => exact ⟨_, _, .reset, rfl⟩
  case cfgwr addr data =>
    simp only [exec, execCfgwr]
    split_ifs with h
    · obtain ⟨rfl, -⟩ := h
      exact ⟨_, _, .control data, rfl⟩
    · exact ⟨_, _, .flagged _ .illop, rfl⟩
  case cfgrd addr =>
    simp only [exec, execCfgrd]
    cases s.reg addr
    case some v => exact ⟨s, _, .unchanged _, rfl⟩
    case none => exact ⟨_, _, .flagged _ .illop, rfl⟩
  case rbPush buf x =>
    exact exec_unit_effect rfl fun he hb => ⟨_, _, .pushed buf x he hb, exec_rbPush_unlocked buf x he hb⟩
  case rbView buf ord off =>
    refine exec_unit_effect rfl fun he hb => ?_
    rw [exec_rbView_unlocked buf ord off he hb, State.viewOp]
    split_ifs
    · exact ⟨s, _, .unchanged _, rfl⟩
    · exact ⟨_, _, .flagged _ .illop, rfl⟩
  case firStep c x =>
    exact exec_unit_effect rfl fun he hb => ⟨_, _, .stepped _ .fir c x he hb, exec_firStep_unlocked c x he hb⟩
  case dlyStep c x =>
    exact exec_unit_effect rfl fun he hb => ⟨_, _, .stepped _ .delay c x he hb, exec_dlyStep_unlocked c x he hb⟩
  case passStep c x =>
    exact exec_unit_effect rfl fun he hb => ⟨_, _, .stepped _ .passthrough c x he hb, exec_passStep_unlocked c x he hb⟩
  case toneStep c =>
    exact exec_unit_effect rfl fun he hb => ⟨_, _, .stepped _ .tone c 0 he hb, exec_toneStep_unlocked c he hb⟩
  case chAdv =>
    exact exec_unit_effect rfl fun he hb => ⟨_, _, .advanced he hb, exec_chAdv_unlocked he hb⟩
  case evt =>
    simp only [exec, execEvt]
    split_ifs with he hb
    · exact ⟨_, _, .overran he hb, rfl⟩
    · exact ⟨_, _, .opened he (Bool.eq_false_of_not_eq_true hb), rfl⟩
    · exact ⟨s, _, .unchanged _, rfl⟩
  case run rxr txr x =>
    simp only [exec, execRun]
    split_ifs with hb
    · exact ⟨_, _, .served rxr txr x hb, rfl⟩
    · exact ⟨s, _, .unchanged _, rfl⟩

theorem exec_next_effect {i : Instr} {s t : State} (h : exec i s = .next t) :
    ∃ u w, OpEffect s i u ∧ t = u.answer w := by
  obtain ⟨u, w, hu, hw⟩ := exec_effect i s
  exact ⟨u, w, hu, Host.Outcome.next.inj (h.symm.trans hw)⟩

/-! ## `serve` -/

section
variable (s : State) (rxr txr : Bool) (x : Sample)

@[simp] theorem State.serve_params : (s.serve rxr txr x).params = s.params := by simp [State.serve]
@[simp] theorem State.serve_busy : (s.serve rxr txr x).busy = false := rfl
@[simp] theorem State.serve_mode : (s.serve rxr txr x).mode = s.mode := by simp [State.serve]
@[simp] theorem State.serve_illop : (s.serve rxr txr x).illop = s.illop := by simp [State.serve]
@[simp] theorem State.serve_locked : (s.serve rxr txr x).locked = s.locked := by simp [State.serve]
@[simp] theorem State.serve_cntTxdrop :
    (s.serve rxr txr x).cntTxdrop = if txr then s.cntTxdrop else satInc s.cntTxdrop := by simp [State.serve]
@[simp] theorem State.serve_cntOverrun : (s.serve rxr txr x).cntOverrun = s.cntOverrun := by simp [State.serve]
@[simp] theorem State.serve_cntRxmiss :
    (s.serve rxr txr x).cntRxmiss = if rxr then s.cntRxmiss else satInc s.cntRxmiss := by simp [State.serve]

end

/-- Of the four fields the invariant reads, only the engine step in the middle of an invocation writes one. -/
theorem State.serve_wf {s : State} (h : s.wf = true) (rxr txr : Bool) (x : Sample) :
    (s.serve rxr txr x).wf = true := by
  have hread : (s.emit (.read s.params.lineRx s.chState)).wf = true := h
  refine State.wf_of_fields (State.process_wf hread rxr x) ?_ ?_ ?_ ?_ <;> simp [State.serve]

/-! ## What every effect keeps -/

namespace OpEffect

variable {s u : State} {i : Instr}

theorem params_eq (h : OpEffect s i u) : u.params = s.params := by
  cases h with
  | reset => rfl
  | _ => simp

/-- Only an insertion, an engine step and a reset write what the invariant reads. -/
theorem keeps_wf (h : OpEffect s i u) (hs : s.wf = true) : u.wf = true := by
  cases h with
  | unchanged => exact hs
  | flagged _ f => refine State.wf_of_fields hs ?_ ?_ ?_ ?_ <;> simp
  | reset => exact State.resetMachine_wf hs
  | control data => refine State.wf_of_fields hs ?_ ?_ ?_ ?_ <;> simp
  | pushed buf x => exact State.setBuffer_wf hs (rbPush_wf x (State.wf_buffer hs buf))
  | stepped _ m c x => exact State.engine_wf hs m c x
  | advanced => exact hs
  | overran => exact hs
  | opened => exact hs
  | served rxr txr x => exact State.serve_wf hs rxr txr x

/-- Event entry (R235). -/
theorem opens (h : OpEffect s i u) (hs : s.busy = false) (hu : u.busy = true) : i = .evt ∧ s.en = true := by
  cases h with
  | opened he => exact ⟨rfl, he⟩
  | reset => cases hu
  | _ => simp_all

/-- The end of an invocation (R236, R237). -/
theorem closes (h : OpEffect s i u) (hs : s.busy = true) (hu : u.busy = false) :
    i = .sreset ∨ ∃ rxr txr x, i = .run rxr txr x := by
  cases h with
  | reset => exact .inl rfl
  | served rxr txr x => exact .inr ⟨rxr, txr, x, rfl⟩
  | _ => simp_all

theorem mode_cases (h : OpEffect s i u) :
    u.mode = s.mode ∨ i = .sreset ∨ (s.en = false ∧ ∃ data, i = .cfgwr 0 data) := by
  cases h with
  | reset => exact .inr (.inl rfl)
  | control data =>
    cases he : s.en
    case true => left; simp [State.writeCtrl_mode, he]
    case false => exact .inr (.inr ⟨rfl, data, rfl⟩)
  | _ => left; simp

theorem illop_sticky (h : OpEffect s i u) (hi : i ≠ .sreset) (hs : s.illop = true) : u.illop = true := by
  cases h with
  | reset => exact absurd rfl hi
  | _ => simp [hs]

theorem locked_sticky (h : OpEffect s i u) (hi : i ≠ .sreset) (hs : s.locked = true) : u.locked = true := by
  cases h with
  | reset => exact absurd rfl hi
  | control data => simp [State.writeCtrl_locked, hs]
  | _ => simp [hs]

/-- A frame is dropped only by a `RUN` whose write is not taken (R32, R188). -/
theorem cntTxdrop_cases (h : OpEffect s i u) (hi : i ≠ .sreset) : u.cntTxdrop = s.cntTxdrop ∨
    ((∃ rxr x, i = .run rxr false x) ∧ s.busy = true ∧ u.cntTxdrop.toNat = s.cntTxdrop.toNat + 1) := by
  cases h with
  | reset => exact absurd rfl hi
  | served rxr txr x hb =>
    cases txr
    case true => left; simp
    case false => simpa [hb] using satInc_cases s.cntTxdrop
  | _ => left; simp

/-- An event is lost only during an open invocation (R33, R183). -/
theorem cntOverrun_cases (h : OpEffect s i u) (hi : i ≠ .sreset) : u.cntOverrun = s.cntOverrun ∨
    (i = .evt ∧ s.en = true ∧ s.busy = true ∧ u.cntOverrun.toNat = s.cntOverrun.toNat + 1) := by
  cases h with
  | reset => exact absurd rfl hi
  | overran he hb => simpa [he, hb] using satInc_cases s.cntOverrun
  | _ => left; simp

/-- A Sample is missed only by a `RUN` whose read is not ready (R34, R187). -/
theorem cntRxmiss_cases (h : OpEffect s i u) (hi : i ≠ .sreset) : u.cntRxmiss = s.cntRxmiss ∨
    ((∃ txr x, i = .run false txr x) ∧ s.busy = true ∧ u.cntRxmiss.toNat = s.cntRxmiss.toNat + 1) := by
  cases h with
  | reset => exact absurd rfl hi
  | served rxr txr x hb =>
    cases rxr
    case true => left; simp
    case false => simpa [hb] using satInc_cases s.cntRxmiss
  | _ => left; simp

end OpEffect

/-! ## Every operation -/

theorem exec_keeps_wf {i : Instr} {s t : State} (hs : s.wf = true) (h : exec i s = .next t) : t.wf = true := by
  obtain ⟨u, w, hu, rfl⟩ := exec_next_effect h
  exact hu.keeps_wf hs

theorem exec_params {i : Instr} {s t : State} (h : exec i s = .next t) : t.params = s.params := by
  obtain ⟨u, w, hu, rfl⟩ := exec_next_effect h
  exact hu.params_eq

/-- Settles O53, by the effects that write `busy`: event entry, the end of an invocation, and reset. -/
theorem onlyEventOpensOnlyRunOrResetCloses : Obligations.OnlyEventOpensOnlyRunOrResetCloses := by
  intro i s t h
  obtain ⟨u, w, hu, rfl⟩ := exec_next_effect h
  exact ⟨hu.opens, hu.closes⟩

/-- Settles O54: a counter moves by a saturating increment in one effect, and a flag falls in none but reset. -/
theorem countersCountTheirCauseOnly : Obligations.CountersCountTheirCauseOnly := by
  intro i s t h hi
  obtain ⟨u, w, hu, rfl⟩ := exec_next_effect h
  exact ⟨hu.illop_sticky hi, hu.locked_sticky hi, hu.cntTxdrop_cases hi, hu.cntOverrun_cases hi, hu.cntRxmiss_cases hi⟩

/-- Settles O55: a write of `CTRL` while armed leaves the mode, and no other effect but reset writes it. -/
theorem modeChangesOnlyWhileDisarmed : Obligations.ModeChangesOnlyWhileDisarmed := by
  intro i s t h hmode
  obtain ⟨u, w, hu, rfl⟩ := exec_next_effect h
  exact hu.mode_cases.resolve_left hmode

/-! ## Every step -/

/-- Settles O47: every operation keeps the invariant, by its effect, and so do a rejected word and the reset. -/
theorem stepKeepsTheInvariant : Obligations.StepKeepsTheInvariant := fun _ _ =>
  step_keeps (P := fun s => s.wf = true) (fun _ _ _ => exec_keeps_wf) (fun _ hs => hs)
    (fun _ => State.resetMachine_wf) (fun _ _ _ hs => hs)

/-- Settles O49: to have one given tuple is a property that every operation, a rejected word and a reset keep. -/
theorem parametersNeverChange : Obligations.ParametersNeverChange := fun s _ =>
  step_keeps (P := fun r => r.params = s.params) (fun _ _ _ hr h => (exec_params h).trans hr) (fun _ hr => hr)
    (fun _ hr => hr) (fun _ _ _ hr => hr) rfl

theorem State.takeArrival_nil {s : State} (h : s.input = []) : s.takeArrival = none := by
  simp [State.takeArrival, h]

/-- Settles O11: no arrival can be taken from an empty stream. -/
theorem waitsWithNothingPresented : Obligations.WaitsWithNothingPresented := by
  intro s hvalid hinput
  rw [step, if_pos hvalid, stepStream, State.takeArrival_nil hinput]

end Sys2Proof.Machine
end

section
/-! SUPPORT. The decoder gives back the operation whose word the encoder wrote (spec/30_encoding.md R71, R72, R78, R81):
a word selects at most one row, and each field of a word reads as the operand written into it. -/

namespace Sys2Proof

/-! ## A word selects at most one row (R78) -/

/-- Where the masks of two different rows overlap, their patterns differ. -/
theorem opcodeMap_patterns_conflict :
    ∀ r ∈ opcodeMap, ∀ r' ∈ opcodeMap, r.pattern &&& r'.mask = r'.pattern &&& r.mask → r = r' := by
  decide

theorem OpRow.eq_of_selects {r r' : OpRow} {w : Word} (hr : r ∈ opcodeMap) (hr' : r' ∈ opcodeMap)
    (h : r.selects w = true) (h' : r'.selects w = true) : r = r' := by
  refine opcodeMap_patterns_conflict r hr r' hr' ?_
  rw [← beq_iff_eq.1 h, ← beq_iff_eq.1 h', BitVec.and_assoc, BitVec.and_assoc, BitVec.and_comm r.mask]

/-- A word that selects a row is decoded by that row's decoder. -/
theorem decode_of_selects {r : OpRow} {f : Word → Instr} {w : Word} (hd : (r, f) ∈ decoders)
    (h : r.selects w = true) : decode w = .ok (f w) := by
  have hmem : ∀ e ∈ decoders, e.1 ∈ opcodeMap := fun e he => List.mem_map_of_mem (f := Prod.fst) he
  obtain ⟨i, hi⟩ := decode_selected (hmem _ hd) h
  obtain ⟨e, he, hsel, rfl⟩ := decode_eq_ok hi
  have hrow : e.1 = r := OpRow.eq_of_selects (hmem e he) (hmem _ hd) hsel h
  have hnodup : (decoders.map Prod.fst).Nodup := show opcodeMap.Nodup by decide
  rw [hi, List.inj_on_of_nodup_map hnodup he hd hrow]

/-! ## Fields of a word that ends in an operand of `m` bits (R72) -/

section
variable {m : Nat} (c : Word) (x : BitVec m)

theorem getLsbD_or_setWidth {k : Nat} (hk : m ≤ k) : (c ||| x.setWidth 32).getLsbD k = c.getLsbD k := by
  simp [BitVec.getLsbD_of_ge x k hk]

theorem extractLsb'_or_setWidth {k n : Nat} (hk : m ≤ k) :
    (c ||| x.setWidth 32).extractLsb' k n = c.extractLsb' k n :=
  word_eq_of_bits fun i hi => by
    simp only [BitVec.getLsbD_extractLsb', getLsbD_or_setWidth c x (Nat.le_add_right_of_le hk)]

theorem extractLsb'_low_or_setWidth {c : Word} (hm : m ≤ 32) (hc : c.extractLsb' 0 m = 0) :
    (c ||| x.setWidth 32).extractLsb' 0 m = x := by
  have hx : (x.setWidth 32).extractLsb' 0 m = x := by
    rw [BitVec.extractLsb'_setWidth_of_le (by omega), BitVec.extractLsb'_eq_self]
  rw [BitVec.extractLsb'_or, hc, hx]
  exact BitVec.zero_or

theorem bufField_or_setWidth (hm : m ≤ 22) : bufField (c ||| x.setWidth 32) = bufField c := by
  rw [bufField, bufField, extractLsb'_or_setWidth c x hm]

theorem ordField_or_setWidth (hm : m ≤ 21) : ordField (c ||| x.setWidth 32) = ordField c := by
  rw [ordField, ordField, getLsbD_or_setWidth c x hm]

theorem chField_or_setWidth (hm : m ≤ 16) : chField (c ||| x.setWidth 32) = chField c := by
  rw [chField, chField, getLsbD_or_setWidth c x hm]

theorem rxrField_or_setWidth (hm : m ≤ 17) : rxrField (c ||| x.setWidth 32) = rxrField c :=
  getLsbD_or_setWidth c x hm

theorem txrField_or_setWidth (hm : m ≤ 16) : txrField (c ||| x.setWidth 32) = txrField c :=
  getLsbD_or_setWidth c x hm

end

theorem dataField_or_setWidth {c : Word} (x : BitVec 16) (hc : dataField c = 0) :
    dataField (c ||| x.setWidth 32) = x :=
  extractLsb'_low_or_setWidth x (by decide) hc

theorem offField_or_off {c : Word} {off : Nat} (hc : c.extractLsb' 0 20 = 0) (h : offFits off = true) :
    offField (c ||| BitVec.ofNat 32 off) = off := by
  obtain ⟨v, hv, hnat⟩ := Laws.EncodeSelects.off_bits h
  rw [offField, hv, extractLsb'_low_or_setWidth v (by decide) hc, hnat]

/-- The operations on a channel and a Sample share one format. -/
theorem decode_channel_sample {r : OpRow} {f : Channel → Sample → Instr} {pattern : Word} {c : Channel} {x : Sample}
    (hd : (r, fun w => f (chField w) (dataField w)) ∈ decoders)
    (hsel : r.selects (pattern ||| c.bits <<< 16 ||| x.setWidth 32) = true)
    (hc : chField (pattern ||| c.bits <<< 16) = c) (hx : dataField (pattern ||| c.bits <<< 16) = 0) :
    decode (pattern ||| c.bits <<< 16 ||| x.setWidth 32) = .ok (f c x) := by
  rw [decode_of_selects hd hsel, chField_or_setWidth _ _ (by decide), hc, dataField_or_setWidth _ hx]

/-! The `addr` field stands above `data`. -/

theorem addrField_or_addr {c : Word} {addr : Nat} (hc : c.extractLsb' 16 8 = 0) (h : addrFits addr = true) :
    addrField (c ||| BitVec.ofNat 32 addr <<< 16) = addr := by
  obtain ⟨v, hv, hnat⟩ := Laws.EncodeSelects.addr_bits h
  have hshift : (v.setWidth 32 <<< 16).extractLsb' 16 8 = v :=
    word_eq_of_bits fun i hi => by simp [hi, show 16 + i < 32 by omega]
  rw [addrField, hv, BitVec.extractLsb'_or, hc, hshift]
  exact (congrArg BitVec.toNat BitVec.zero_or).trans hnat

theorem addrField_or_setWidth (c : Word) (x : BitVec 16) : addrField (c ||| x.setWidth 32) = addrField c :=
  congrArg BitVec.toNat (extractLsb'_or_setWidth c x (by decide))

theorem dataField_or_addr {c : Word} (w : Word) (hc : dataField c = 0) : dataField (c ||| w <<< 16) = 0 := by
  have hshift : (w <<< 16).extractLsb' 0 16 = 0 := word_eq_of_bits fun i hi => by simp [hi]
  rw [dataField] at hc ⊢
  rw [BitVec.extractLsb'_or, hc, hshift]
  exact BitVec.zero_or

/-! ## The round trip -/

/-- The word of a well-formed operation selects the operation's row (R78). -/
theorem Instr.row_selects_encode {i : Instr} (h : i.wf = true) : i.row.selects (encode i) = true := by
  cases i
  case nop => exact Laws.EncodeSelects.nop h
  case sreset => exact Laws.EncodeSelects.sreset h
  case cfgwr addr data => exact Laws.EncodeSelects.cfgwr addr data h
  case cfgrd addr => exact Laws.EncodeSelects.cfgrd addr h
  case rbPush buf x => exact Laws.EncodeSelects.rbPush buf x h
  case rbView buf ord off => exact Laws.EncodeSelects.rbView buf ord off h
  case firStep c x => exact Laws.EncodeSelects.firStep c x h
  case dlyStep c x => exact Laws.EncodeSelects.dlyStep c x h
  case passStep c x => exact Laws.EncodeSelects.passStep c x h
  case toneStep c => exact Laws.EncodeSelects.toneStep c h
  case chAdv => exact Laws.EncodeSelects.chAdv h
  case evt => exact Laws.EncodeSelects.evt h
  case run rxr txr x => exact Laws.EncodeSelects.run rxr txr x h

/-- Decoding the word of a well-formed operation gives the operation, operand by operand. -/
theorem decode_encode {i : Instr} (h : i.wf = true) : decode (encode i) = .ok i := by
  have hsel := Instr.row_selects_encode h
  cases i
  case nop => decide
  case sreset => decide
  case cfgwr addr data =>
    rw [decode_of_selects (f := fun w => .cfgwr (addrField w) (dataField w)) (by simp [decoders, Instr.row]) hsel,
      encode, addrField_or_setWidth, addrField_or_addr (by decide) h,
      dataField_or_setWidth _ (dataField_or_addr _ (by decide))]
  case cfgrd addr =>
    rw [decode_of_selects (f := fun w => .cfgrd (addrField w)) (by simp [decoders, Instr.row]) hsel,
      encode, addrField_or_addr (by decide) h]
  case rbPush buf x =>
    rw [decode_of_selects (f := fun w => .rbPush (bufField w) (dataField w)) (by simp [decoders, Instr.row]) hsel,
      encode, bufField_or_setWidth _ _ (by decide), dataField_or_setWidth _ (by cases buf <;> decide)]
    cases buf <;> rfl
  case rbView buf ord off =>
    obtain ⟨v, hv, -⟩ := Laws.EncodeSelects.off_bits h
    rw [decode_of_selects (f := fun w => .rbView (bufField w) (ordField w) (offField w))
      (by simp [decoders, Instr.row]) hsel,
      encode, offField_or_off (by cases buf <;> cases ord <;> decide) h, hv, bufField_or_setWidth _ _ (by decide),
      ordField_or_setWidth _ _ (by decide)]
    cases buf <;> cases ord <;> rfl
  case firStep c x =>
    exact decode_channel_sample (f := .firStep) (by simp [decoders, Instr.row]) hsel
      (by cases c <;> rfl) (by cases c <;> rfl)
  case dlyStep c x =>
    exact decode_channel_sample (f := .dlyStep) (by simp [decoders, Instr.row]) hsel
      (by cases c <;> rfl) (by cases c <;> rfl)
  case passStep c x =>
    exact decode_channel_sample (f := .passStep) (by simp [decoders, Instr.row]) hsel
      (by cases c <;> rfl) (by cases c <;> rfl)
  case toneStep c => cases c <;> decide
  case chAdv => decide
  case evt => decide
  case run rxr txr x =>
    rw [decode_of_selects (f := fun w => .run (rxrField w) (txrField w) (dataField w))
      (by simp [decoders, Instr.row]) hsel,
      encode, rxrField_or_setWidth _ _ (by decide), txrField_or_setWidth _ _ (by decide),
      dataField_or_setWidth _ (by cases rxr <;> cases txr <;> decide)]
    cases rxr <;> cases txr <;> rfl

end Sys2Proof
end

section
/-! SUPPORT. The statements about memory and ordering (spec/20_memory.md): no operation looks at the stream of arrivals,
so a stream of words runs in order (R58), and none looks at where a ring buffer keeps an element (R56). Both follow from
one relation between two machines that differ in their ring buffers and in what is still to be presented. -/

namespace Sys2Proof.Machine

/-! ## Machines alike but for their buffers and their stream -/

/-- The same machine with other ring buffers and another stream of arrivals. -/
def State.withStore (s : State) (fir dly : Stereo RingBuffer) (input : List Input) : State :=
  { s with fir := fir, dly := dly, input := input }

/-- A relation between ring buffers of one capacity that every use of a ring buffer keeps and gives the same answer on:
after reset, insertion with the evicted Sample, view, and both engines. -/
structure BufferBisimulation (R : Nat → RingBuffer → RingBuffer → Prop) : Prop where
  empty : ∀ {n : Nat}, 0 < n → R n .empty .empty
  push : ∀ {n : Nat} {b b' : RingBuffer} (x : Sample), R n b b' →
    R n (rbPush n b x).1 (rbPush n b' x).1 ∧ (rbPush n b x).2 = (rbPush n b' x).2
  view : ∀ {n off : Nat} {b b' : RingBuffer} (ord : ViewOrder), R n b b' → off < n →
    rbView n b ord off = rbView n b' ord off
  fir : ∀ {p : Params} {b b' : RingBuffer} (x : Sample), R p.nTaps b b' →
    R p.nTaps (firEngine p b x).1 (firEngine p b' x).1 ∧ (firEngine p b x).2 = (firEngine p b' x).2
  dly : ∀ {p : Params} {b b' : RingBuffer} (x : Sample), R p.d b b' →
    R p.d (dlyEngine p b x).1 (dlyEngine p b' x).1 ∧ (dlyEngine p b x).2 = (dlyEngine p b' x).2

/-- Two machines of one valid tuple whose ring buffers are related and that agree in all else but the stream. -/
structure Alike (R : Nat → RingBuffer → RingBuffer → Prop) (s s' : State) : Prop where
  valid : s.params.valid = true
  buffers : ∀ b, R (capacity s.params b) (s.buffer b) (s'.buffer b)
  rest : s' = s.withStore s'.fir s'.dly s'.input

/-- An effect that takes machines alike to machines alike. -/
def KeepsAlike (R : Nat → RingBuffer → RingBuffer → Prop) (effect : State → State) : Prop :=
  ∀ s s', Alike R s s' → Alike R (effect s) (effect s')

/-- An effect that neither reads nor writes the ring buffers and the stream. -/
def StoreFree (effect : State → State) : Prop :=
  ∀ s, (effect s).params = s.params ∧
    ∀ fir dly input, effect (s.withStore fir dly input) = (effect s).withStore fir dly input

theorem StoreFree.buffer {effect : State → State} (h : StoreFree effect) (s : State) (b : BufId) :
    (effect s).buffer b = s.buffer b := by
  have hself : effect s = (effect s).withStore s.fir s.dly s.input := (h s).2 s.fir s.dly s.input
  rw [hself]
  cases b <;> rfl

variable {R : Nat → RingBuffer → RingBuffer → Prop}

theorem StoreFree.keepsAlike {effect : State → State} (h : StoreFree effect) : KeepsAlike R effect := by
  intro s s' ha
  obtain ⟨hparams, hstore⟩ := h s
  refine ⟨hparams ▸ ha.valid, fun b => ?_, ?_⟩
  · rw [h.buffer, h.buffer, hparams]
    exact ha.buffers b
  · rw [ha.rest, hstore]
    rfl

/-- Machines alike agree in everything that is neither a ring buffer nor the stream. -/
theorem Alike.agree {α : Type} {s s' : State} (ha : Alike R s s') (f : State → α)
    (hf : ∀ s fir dly input, f (s.withStore fir dly input) = f s) : f s' = f s := by
  rw [ha.rest, hf]

theorem Alike.params_eq {s s' : State} (ha : Alike R s s') : s'.params = s.params :=
  ha.agree State.params fun _ _ _ _ => rfl

/-- What follows an operation that answers alike. -/
theorem Alike.andThen {α : Type} {s s' : State} {y y' : α} {f : α → State → State} (hf : ∀ y, StoreFree (f y))
    (h : Alike R s s' ∧ y = y') : Alike R (f y s) (f y' s') := by
  obtain ⟨ha, rfl⟩ := h
  exact (hf y).keepsAlike s s' ha

/-- A choice that the ring buffers and the stream do not enter. -/
theorem KeepsAlike.ite {c : State → Prop} [DecidablePred c] {e e' : State → State}
    (hc : ∀ s fir dly input, c (s.withStore fir dly input) = c s) (he : KeepsAlike R e) (he' : KeepsAlike R e') :
    KeepsAlike R fun s => if c s then e s else e' s := by
  intro s s' ha
  simp only [ha.agree c hc]
  split_ifs
  exacts [he s s' ha, he' s s' ha]

theorem storeFree_respond (flag : Bool) (data : BitVec 16) : StoreFree fun s => s.respond flag data :=
  fun _ => ⟨rfl, fun _ _ _ => rfl⟩

theorem storeFree_reject (flag : StickyFlag) : StoreFree fun s => s.reject flag := by
  cases flag <;> exact fun _ => ⟨rfl, fun _ _ _ => rfl⟩

theorem storeFree_writeCtrl (data : BitVec 16) : StoreFree fun s => s.writeCtrl data := by
  refine fun s => ⟨s.writeCtrl_params data, fun fir dly input => ?_⟩
  cases he : s.en
  case false => simp [State.writeCtrl, State.withStore, he]
  case true =>
    by_cases hm : modeOfBits (data.extractLsb' 1 2) = s.mode <;>
      simp [State.writeCtrl, State.withStore, State.setSticky, he, hm]

/-! ## Insertions and engine steps -/

theorem Alike.setBuffer {s s' : State} (ha : Alike R s s') {i : BufId} {b b' : RingBuffer}
    (hb : R (capacity s.params i) b b') : Alike R (s.setBuffer i b) (s'.setBuffer i b') := by
  refine ⟨by simpa using ha.valid, fun j => ?_, ?_⟩
  · rw [State.setBuffer_params]
    by_cases hj : j = i
    · subst hj
      simpa using hb
    · rw [State.buffer_setBuffer_ne s b hj, State.buffer_setBuffer_ne s' b' hj]
      exact ha.buffers j
  · rw [ha.rest]
    cases i <;> rfl

/-- An operation on one ring buffer that keeps the relation and answers alike. -/
theorem Alike.replaceBuffer {α : Type} {s s' : State} (ha : Alike R s s') {i : BufId} {n : Nat}
    {f : RingBuffer → RingBuffer × α} (hn : capacity s.params i = n)
    (hf : ∀ b b', R n b b' → R n (f b).1 (f b').1 ∧ (f b).2 = (f b').2) :
    Alike R (s.setBuffer i (f (s.buffer i)).1) (s'.setBuffer i (f (s'.buffer i)).1) ∧
      (f (s.buffer i)).2 = (f (s'.buffer i)).2 := by
  subst hn
  obtain ⟨hbuf, hout⟩ := hf _ _ (ha.buffers i)
  exact ⟨ha.setBuffer hbuf, hout⟩

/-- The ring buffer of a channel's FIR engine (R23). -/
def firBuffer : Channel → BufId
  | .left => .firL
  | .right => .firR

/-- The ring buffer of a channel's delay engine (R23). -/
def dlyBuffer : Channel → BufId
  | .left => .dlyL
  | .right => .dlyR

theorem capacity_firBuffer (p : Params) (c : Channel) : capacity p (firBuffer c) = p.nTaps := by cases c <;> rfl

theorem capacity_dlyBuffer (p : Params) (c : Channel) : capacity p (dlyBuffer c) = p.d := by cases c <;> rfl

theorem State.firStep_eq_setBuffer (s : State) (c : Channel) (x : Sample) : s.firStep c x =
    (s.setBuffer (firBuffer c) (firEngine s.params (s.buffer (firBuffer c)) x).1,
      (firEngine s.params (s.buffer (firBuffer c)) x).2) := by
  cases c <;> rfl

theorem State.dlyStep_eq_setBuffer (s : State) (c : Channel) (x : Sample) : s.dlyStep c x =
    (s.setBuffer (dlyBuffer c) (dlyEngine s.params (s.buffer (dlyBuffer c)) x).1,
      (dlyEngine s.params (s.buffer (dlyBuffer c)) x).2) := by
  cases c <;> rfl

/-! ## The end of an invocation -/

/-- What follows the read and the processing of an invocation: write, advance, acknowledge, answer (R185). -/
def State.deliver (s : State) (txr : Bool) (y : Sample) : State :=
  (s.transportWrite s.chState y txr).chAdvance.endInvocation.respond txr y

theorem State.handlerBody_eq_deliver (s : State) (rxr txr : Bool) (x : Sample) : s.handlerBody rxr txr x =
    ((s.emit (.read s.params.lineRx s.chState)).process rxr x).1.deliver txr
      ((s.emit (.read s.params.lineRx s.chState)).process rxr x).2 := by
  simp [State.handlerBody, State.deliver]

theorem storeFree_deliver (txr : Bool) (y : Sample) : StoreFree fun s => s.deliver txr y := by
  cases txr <;> exact fun _ => ⟨rfl, fun _ _ _ => rfl⟩

/-! ## The operations that use a ring buffer -/

section
variable (hR : BufferBisimulation R)
include hR

theorem Alike.firStep {s s' : State} (ha : Alike R s s') (c : Channel) (x : Sample) :
    Alike R (s.firStep c x).1 (s'.firStep c x).1 ∧ (s.firStep c x).2 = (s'.firStep c x).2 := by
  simp only [State.firStep_eq_setBuffer, ha.params_eq]
  exact ha.replaceBuffer (capacity_firBuffer s.params c) fun _ _ => hR.fir x

theorem Alike.dlyStep {s s' : State} (ha : Alike R s s') (c : Channel) (x : Sample) :
    Alike R (s.dlyStep c x).1 (s'.dlyStep c x).1 ∧ (s.dlyStep c x).2 = (s'.dlyStep c x).2 := by
  simp only [State.dlyStep_eq_setBuffer, ha.params_eq]
  exact ha.replaceBuffer (capacity_dlyBuffer s.params c) fun _ _ => hR.dly x

theorem Alike.engine {s s' : State} (ha : Alike R s s') (m : Mode) (c : Channel) (x : Sample) :
    Alike R (s.engine m c x).1 (s'.engine m c x).1 ∧ (s.engine m c x).2 = (s'.engine m c x).2 := by
  cases m
  case passthrough => exact ⟨ha, rfl⟩
  case fir => exact ha.firStep hR c x
  case delay => exact ha.dlyStep hR c x
  case tone =>
    have htone : StoreFree fun s => (s.toneStep c).1 := fun _ => ⟨rfl, fun _ _ _ => rfl⟩
    exact ⟨htone.keepsAlike s s' ha, (ha.agree (fun s => (s.toneStep c).2) fun _ _ _ _ => rfl).symm⟩

theorem Alike.process {s s' : State} (ha : Alike R s s') (rxr : Bool) (x : Sample) :
    Alike R (s.process rxr x).1 (s'.process rxr x).1 ∧ (s.process rxr x).2 = (s'.process rxr x).2 := by
  cases rxr
  case true =>
    have hmode : s'.mode = s.mode := ha.agree State.mode fun _ _ _ _ => rfl
    have hchannel : s'.chState = s.chState := ha.agree State.chState fun _ _ _ _ => rfl
    simp only [State.process, hmode, hchannel, if_true]
    exact ha.engine hR s.mode s.chState x
  case false =>
    have hmiss : StoreFree State.countRxmiss := fun _ => ⟨rfl, fun _ _ _ => rfl⟩
    exact ⟨hmiss.keepsAlike s s' ha, rfl⟩

theorem keepsAlike_handlerBody (rxr txr : Bool) (x : Sample) : KeepsAlike R fun s => s.handlerBody rxr txr x := by
  intro s s' ha
  have hread : StoreFree fun s => s.emit (.read s.params.lineRx s.chState) := fun _ => ⟨rfl, fun _ _ _ => rfl⟩
  simp only [State.handlerBody_eq_deliver]
  exact Alike.andThen (storeFree_deliver txr) ((hread.keepsAlike s s' ha).process hR rxr x)

theorem keepsAlike_pushOp (buf : BufId) (x : Sample) : KeepsAlike R fun s => s.pushOp buf x := by
  intro s s' ha
  obtain ⟨hbuf, hanswer⟩ := hR.push x (ha.buffers buf)
  simp only [State.pushOp, ha.params_eq, ← hanswer]
  exact (storeFree_respond _ _).keepsAlike _ _ (ha.setBuffer hbuf)

theorem keepsAlike_viewOp (buf : BufId) (ord : ViewOrder) (off : Nat) :
    KeepsAlike R fun s => s.viewOp buf ord off := by
  intro s s' ha
  simp only [State.viewOp, ha.params_eq]
  split_ifs with hoff
  · rw [← hR.view ord (ha.buffers buf) hoff]
    exact (storeFree_respond _ _).keepsAlike _ _ ha
  · exact (storeFree_reject _).keepsAlike _ _ ha

theorem keepsAlike_resetMachine : KeepsAlike R State.resetMachine := by
  intro s s' ha
  obtain ⟨htaps, hdelay, -⟩ := valid_pos ha.valid
  refine ⟨ha.valid, fun b => ?_, by rw [ha.rest]; rfl⟩
  cases b
  exacts [hR.empty htaps, hR.empty htaps, hR.empty hdelay, hR.empty hdelay]

end

/-! ## Every operation -/

/-- The lock reads `EN` and `busy` only (R76). -/
theorem KeepsAlike.unitOp {effect : State → State} (h : KeepsAlike R effect) :
    ∃ e, KeepsAlike R e ∧ ∀ s, Machine.unitOp s effect = .next (e s) :=
  ⟨fun s => if s.lockedOut then s.reject .locked else effect s,
    .ite (fun _ _ _ _ => rfl) (storeFree_reject .locked).keepsAlike h, fun _ => rfl⟩

theorem keepsAlike_respondOutput {step : State → State × Sample}
    (h : ∀ s s', Alike R s s' → Alike R (step s).1 (step s').1 ∧ (step s).2 = (step s').2) :
    KeepsAlike R fun s => respondOutput (step s) :=
  fun s s' ha => Alike.andThen (storeFree_respond false) (h s s' ha)

/-- Every operation is an effect that keeps machines alike. -/
theorem exec_keepsAlike (hR : BufferBisimulation R) (i : Instr) :
    ∃ e, KeepsAlike R e ∧ ∀ s, exec i s = .next (e s) := by
  cases i
  case nop => exact ⟨_, (storeFree_respond false 0).keepsAlike, fun _ => rfl⟩
  case sreset =>
    refine ⟨fun s => s.resetMachine.respond false 0, fun s s' ha => ?_, fun _ => rfl⟩
    exact (storeFree_respond false 0).keepsAlike _ _ (keepsAlike_resetMachine hR s s' ha)
  case cfgwr addr data =>
    refine ⟨_, .ite (fun _ _ _ _ => rfl) (e := fun s => (s.writeCtrl data).respond false 0) (fun s s' ha => ?_)
      (storeFree_reject .illop).keepsAlike, fun _ => rfl⟩
    exact (storeFree_respond false 0).keepsAlike _ _ ((storeFree_writeCtrl data).keepsAlike s s' ha)
  case cfgrd addr =>
    refine ⟨_, fun s s' ha => ?_, fun _ => rfl⟩
    rw [ha.agree (State.reg · addr) fun _ _ _ _ => rfl]
    cases s.reg addr
    case some v => exact (storeFree_respond false v).keepsAlike s s' ha
    case none => exact (storeFree_reject .illop).keepsAlike s s' ha
  case rbPush buf x => exact (keepsAlike_pushOp hR buf x).unitOp
  case rbView buf ord off => exact (keepsAlike_viewOp hR buf ord off).unitOp
  case firStep c x => exact (keepsAlike_respondOutput fun _ _ ha => ha.engine hR .fir c x).unitOp
  case dlyStep c x => exact (keepsAlike_respondOutput fun _ _ ha => ha.engine hR .delay c x).unitOp
  case passStep c x => exact (keepsAlike_respondOutput fun _ _ ha => ha.engine hR .passthrough c x).unitOp
  case toneStep c => exact (keepsAlike_respondOutput fun _ _ ha => ha.engine hR .tone c 0).unitOp
  case chAdv =>
    have hadvance : StoreFree State.advanceOp := fun _ => ⟨rfl, fun _ _ _ => rfl⟩
    exact hadvance.keepsAlike.unitOp
  case evt =>
    have hoverrun : StoreFree fun s => s.countOverrun.respond false 0 := fun _ => ⟨rfl, fun _ _ _ => rfl⟩
    have haccept : StoreFree fun s => s.acceptEvent.respond true 0 := fun _ => ⟨rfl, fun _ _ _ => rfl⟩
    refine ⟨_, .ite (fun _ _ _ _ => rfl) ?_ (storeFree_respond false 0).keepsAlike, fun _ => rfl⟩
    exact .ite (fun _ _ _ _ => rfl) hoverrun.keepsAlike haccept.keepsAlike
  case run rxr txr x =>
    have hidle : StoreFree fun s => s.answer 0 := fun _ => ⟨rfl, fun _ _ _ => rfl⟩
    exact ⟨_, .ite (fun _ _ _ _ => rfl) (keepsAlike_handlerBody hR rxr txr x) hidle.keepsAlike, fun _ => rfl⟩

theorem exec_alike (hR : BufferBisimulation R) {i : Instr} {s s' t t' : State} (ha : Alike R s s')
    (h : exec i s = .next t) (h' : exec i s' = .next t') : Alike R t t' := by
  obtain ⟨e, hkeeps, hexec⟩ := exec_keepsAlike hR i
  obtain rfl : e s = t := Host.Outcome.next.inj ((hexec s).symm.trans h)
  obtain rfl : e s' = t' := Host.Outcome.next.inj ((hexec s').symm.trans h')
  exact hkeeps s s' ha

/-! ## The stream of arrivals -/

@[simp] theorem State.serve_input (s : State) (rxr txr : Bool) (x : Sample) : (s.serve rxr txr x).input = s.input := by
  simp [State.serve]

/-- No operation takes or adds an arrival. -/
theorem exec_input {i : Instr} {s t : State} (h : exec i s = .next t) : t.input = s.input := by
  obtain ⟨u, w, hu, rfl⟩ := exec_next_effect h
  cases hu with
  | reset => rfl
  | _ => simp

/-- Equal buffers cannot be told apart. -/
theorem bufferBisimulation_eq : BufferBisimulation fun _ b b' => b = b' where
  empty _ := rfl
  push _ h := h ▸ ⟨rfl, rfl⟩
  view _ h _ := h ▸ rfl
  fir _ h := h ▸ ⟨rfl, rfl⟩
  dly _ h := h ▸ ⟨rfl, rfl⟩

/-- Machines with equal buffers that are alike differ in the stream alone. -/
theorem Alike.eq_set_input {s s' : State} (ha : Alike (fun _ b b' => b = b') s s') :
    s' = { s with input := s'.input } := by
  have hfir : s'.fir = s.fir := congrArg₂ Stereo.mk (ha.buffers .firL).symm (ha.buffers .firR).symm
  have hdly : s'.dly = s.dly := congrArg₂ Stereo.mk (ha.buffers .dlyL).symm (ha.buffers .dlyR).symm
  calc s' = s.withStore s'.fir s'.dly s'.input := ha.rest
    _ = s.withStore s.fir s.dly s'.input := by rw [hfir, hdly]

/-- An operation does the same whatever is still to be presented. -/
theorem exec_set_input {i : Instr} {s t : State} (hvalid : s.params.valid = true) (h : exec i s = .next t)
    (input : List Input) : exec i { s with input := input } = .next { t with input := input } := by
  obtain ⟨t', h'⟩ := exec_next i { s with input := input }
  have ha : Alike (fun _ b b' => b = b') s { s with input := input } := ⟨hvalid, fun b => by cases b <;> rfl, rfl⟩
  have ht : t' = { t with input := t'.input } := (exec_alike bufferBisimulation_eq ha h h').eq_set_input
  rw [exec_input h'] at ht
  rw [h', ht]

/-- A word that is next in the stream is presented to the machine without it. -/
theorem step_word {s : State} {w : Word} {rest : List Input} (hvalid : s.params.valid = true)
    (hinput : s.input = .one (.word w) :: rest) : step s = present w { s with input := rest } := by
  simp [step, hvalid, stepStream, State.takeArrival, hinput, arrive]

theorem present_encode {i : Instr} (hi : i.wf = true) (s : State) : present (encode i) s = exec i s := by
  rw [present, decode_encode hi]

/-- One step on the word of an operation, in terms of the operation alone. -/
theorem step_encode {i : Instr} {s : State} {rest : List Input} (hi : i.wf = true) (hvalid : s.params.valid = true)
    (hinput : s.input = .one (.word (encode i)) :: rest) :
    ∃ t, step s = .next t ∧ t.params = s.params ∧ t.input = rest ∧
      ∀ input, exec i { s with input := input } = .next { t with input := input } := by
  obtain ⟨t, ht⟩ := exec_next i { s with input := rest }
  have hstep : step s = .next t := by rw [step_word hvalid hinput, present_encode hi, ht]
  have hparams : t.params = { s with input := rest }.params := exec_params ht
  exact ⟨t, hstep, hparams, exec_input ht, exec_set_input (s := { s with input := rest }) hvalid ht⟩

/-- Settles O7, by induction on the sequence: a step takes the first word and runs its operation, which does not look at
the stream it is taken from. -/
theorem streamOfWordsRunsInOrder : Obligations.StreamOfWordsRunsInOrder := by
  intro is
  induction is with
  | nil =>
    intro s rest _ _ hinput
    obtain rfl : s.input = rest := hinput
    rfl
  | cons i is ih =>
    intro s rest hwf hvalid hinput
    obtain ⟨hi, his⟩ := List.forall_mem_cons.1 hwf
    obtain ⟨t, hstep, hparams, ht, hexec⟩ := step_encode hi hvalid hinput
    have hrun : core.run (i :: is).length s = core.run is.length t := by
      simp only [List.length_cons, Host.Core.run, core, hstep]
    have hall : execAll (i :: is) { s with input := rest } = execAll is { t with input := rest } := by
      rw [execAll, hexec]
    rw [hrun, hall]
    exact ih t rest his (hparams ▸ hvalid) ht

/-! ## The physical layout (R56) -/

/-- Two buffers that meet the invariant and show the same history. -/
def sameHistoryWf (n : Nat) (b b' : RingBuffer) : Prop := b.wf n = true ∧ b'.wf n = true ∧ sameHistory n b b'

theorem sameHistory_refl (n : Nat) (b : RingBuffer) : sameHistory n b b := ⟨rfl, fun _ _ => rfl⟩

theorem sameHistory_view {n : Nat} {b b' : RingBuffer} (hs : sameHistory n b b') (ord : ViewOrder) {off : Nat}
    (hoff : off < n) : rbView n b ord off = rbView n b' ord off := by
  cases ord
  case newestFirst => exact hs.2 off hoff
  case oldestFirst =>
    simp only [rbView, rbViewO_eq_rbViewN hoff]
    exact hs.2 _ (by omega)

theorem bufferBisimulation_sameHistory : BufferBisimulation sameHistoryWf where
  empty h := ⟨RingBuffer.empty_wf h, RingBuffer.empty_wf h, sameHistory_refl _ _⟩
  push x := fun ⟨hwf, hwf', hs⟩ =>
    ⟨⟨rbPush_wf x hwf, rbPush_wf x hwf', sameHistory_push hwf hwf' hs x⟩, sameHistory_evicted hwf hwf' hs x⟩
  view ord := fun ⟨_, _, hs⟩ hoff => sameHistory_view hs ord hoff
  fir x := fun ⟨hwf, hwf', hs⟩ =>
    have ⟨hbuf, hout⟩ := sameHistory_fir x hwf hwf' hs
    ⟨⟨firEngine_wf x hwf, firEngine_wf x hwf', hbuf⟩, hout⟩
  dly x := fun ⟨hwf, hwf', hs⟩ =>
    have ⟨hbuf, hout⟩ := sameHistory_dly x hwf hwf' hs
    ⟨⟨dlyEngine_wf x hwf, dlyEngine_wf x hwf', hbuf⟩, hout⟩

theorem sameView_iff {s s' : State} : sameView s s' ↔
    (∀ b, sameHistory (capacity s.params b) (s.buffer b) (s'.buffer b)) ∧
      { s with fir := s'.fir, dly := s'.dly } = s' := by
  constructor
  · rintro ⟨hfl, hfr, hdl, hdr, hrest⟩
    refine ⟨fun b => ?_, hrest⟩
    cases b
    exacts [hfl, hfr, hdl, hdr]
  · rintro ⟨hbuf, hrest⟩
    exact ⟨hbuf .firL, hbuf .firR, hbuf .dlyL, hbuf .dlyR, hrest⟩

/-- Settles O27: every use of a ring buffer keeps the relation of showing the same history, so every operation does. -/
theorem physicalLayoutUnobservable : Obligations.PhysicalLayoutUnobservable := by
  intro i s s' t t' hwf hwf' hview h h'
  obtain ⟨hbuf, hrest⟩ := sameView_iff.1 hview
  have hparams : s'.params = s.params := by rw [← hrest]
  have hinput : s'.input = s.input := by rw [← hrest]
  have ha : Alike sameHistoryWf s s' := by
    have hwfb : ∀ b, (s'.buffer b).wf (capacity s.params b) = true := hparams ▸ State.wf_buffer hwf'
    refine ⟨State.wf_params hwf, fun b => ⟨State.wf_buffer hwf b, hwfb b, hbuf b⟩, ?_⟩
    rw [State.withStore, hinput]
    exact hrest.symm
  obtain ⟨-, hbuf', hrest'⟩ := exec_alike bufferBisimulation_sameHistory ha h h'
  refine sameView_iff.2 ⟨fun b => (hbuf' b).2.2, ?_⟩
  rw [State.withStore, exec_input h', hinput, ← exec_input h] at hrest'
  exact hrest'.symm

end Sys2Proof.Machine
end

section
/-! SUPPORT. The statements about operation and response words (spec/30_encoding.md): every accepted word is the
encoding of the operation it decodes to (R71, R72); which words the decoder accepts (R78, R79); the response word (R73); and how
an operation can end, said once as the relation `Ends`, from which rejection (R74, R75) and the lock (R76) follow. -/

namespace Sys2Proof

/-- Settles O1: each field of the word reads as the operand written into it. -/
theorem decodeAfterEncode : Obligations.DecodeAfterEncode := fun _ => decode_encode

/-! ## A field put back in its place is the word under the field's mask (R72) -/

section
variable (w : Word)

theorem setWidth_dataField : (dataField w).setWidth 32 = w &&& 0x0000FFFF :=
  word_eq_of_bits fun i hi => by
    rw [dataField]
    interval_cases i <;> simp

theorem shiftLeft_addrField : BitVec.ofNat 32 (addrField w) <<< 16 = w &&& 0x00FF0000 :=
  word_eq_of_bits fun i hi => by
    rw [addrField, BitVec.ofNat_toNat]
    interval_cases i <;> simp

theorem ofNat_offField : BitVec.ofNat 32 (offField w) = w &&& 0x000FFFFF :=
  word_eq_of_bits fun i hi => by
    rw [offField, BitVec.ofNat_toNat]
    interval_cases i <;> simp

theorem BufId.bits_ofBits (v : BitVec 2) : (BufId.ofBits v).bits = v.setWidth 32 := by
  revert v
  decide

theorem shiftLeft_bufField : (bufField w).bits <<< 22 = w &&& 0x00C00000 :=
  word_eq_of_bits fun i hi => by
    rw [bufField, BufId.bits_ofBits]
    interval_cases i <;> simp

/-- The operands of one bit share one format. -/
theorem shiftLeft_flagBits (k : Nat) : flagBits (w.getLsbD k) <<< k = w &&& BitVec.twoPow 32 k := by
  rw [BitVec.and_twoPow]
  cases w.getLsbD k
  case false => exact BitVec.zero_shiftLeft k
  case true => exact (BitVec.twoPow_eq 32 k).symm

theorem shiftLeft_rxrField : flagBits (rxrField w) <<< 17 = w &&& 0x00020000 := shiftLeft_flagBits w 17

theorem shiftLeft_txrField : flagBits (txrField w) <<< 16 = w &&& 0x00010000 := shiftLeft_flagBits w 16

theorem shiftLeft_ordField : (ordField w).bits <<< 21 = w &&& 0x00200000 := by
  have hbits : (ordField w).bits = flagBits (w.getLsbD 21) := by rw [ordField]; cases w.getLsbD 21 <;> rfl
  exact hbits ▸ shiftLeft_flagBits w 21

theorem shiftLeft_chField : (chField w).bits <<< 16 = w &&& 0x00010000 := by
  have hbits : (chField w).bits = flagBits (w.getLsbD 16) := by rw [chField]; cases w.getLsbD 16 <;> rfl
  exact hbits ▸ shiftLeft_flagBits w 16

theorem addrFits_addrField : addrFits (addrField w) = true := decide_eq_true (w.extractLsb' 16 8).isLt

theorem offFits_offField : offFits (offField w) = true := decide_eq_true (w.extractLsb' 0 20).isLt

end

/-! ## Every accepted word is the encoding of its operation (R71) -/

theorem wf_of_decode {w : Word} {i : Instr} (h : decode w = .ok i) : i.wf = true := by
  obtain ⟨-, hi⟩ := decode_ok h
  cases i
  case cfgwr addr data => cases hi; exact addrFits_addrField w
  case cfgrd addr => cases hi; exact addrFits_addrField w
  case rbView buf ord off => cases hi; exact offFits_offField w
  all_goals rfl

/-- A row whose mask covers the word has one word: its pattern. -/
theorem OpRow.pattern_eq {r : OpRow} {w : Word} (hsel : r.selects w = true) (hmask : r.mask = BitVec.allOnes 32) :
    r.pattern = w := by
  rw [← beq_iff_eq.1 hsel, hmask, BitVec.and_allOnes]

/-- When the masks of a row and of its fields cover the word, the pattern and the fields make up the word. -/
theorem OpRow.pattern_or_fields {r : OpRow} {w fields : Word} (hsel : r.selects w = true)
    (hcover : r.mask ||| fields = BitVec.allOnes 32) : r.pattern ||| w &&& fields = w := by
  rw [← beq_iff_eq.1 hsel, ← BitVec.and_or_distrib_left, hcover, BitVec.and_allOnes]

theorem encode_of_decode {w : Word} {i : Instr} (h : decode w = .ok i) : encode i = w := by
  obtain ⟨hsel, hi⟩ := decode_ok h
  cases i
  case nop => exact OpRow.pattern_eq hsel rfl
  case sreset => exact OpRow.pattern_eq hsel rfl
  case chAdv => exact OpRow.pattern_eq hsel rfl
  case evt => exact OpRow.pattern_eq hsel rfl
  all_goals
    cases hi
    simp only [encode, setWidth_dataField, shiftLeft_addrField, ofNat_offField, shiftLeft_bufField,
      shiftLeft_ordField, shiftLeft_chField, shiftLeft_rxrField, shiftLeft_txrField, BitVec.or_assoc,
      ← BitVec.and_or_distrib_left]
    exact OpRow.pattern_or_fields hsel (by simp only [Instr.row]; decide)

/-- Settles O2: every bit of the word belongs to the pattern of the selected row or to a field, and a field is put back
where it was taken from. -/
theorem encodeAfterDecode : Obligations.EncodeAfterDecode := fun _ _ h => ⟨wf_of_decode h, encode_of_decode h⟩

/-! ## The rows of the opcode map (R78, R79) -/

/-- Settles O3: where the masks of two rows overlap, their patterns differ. -/
theorem opcodeRowsDisjoint : Obligations.OpcodeRowsDisjoint := fun _ _ _ => OpRow.eq_of_selects

/-- The decoder accepts exactly the words that select a row. -/
theorem decode_ok_iff {w : Word} : (∃ i, decode w = .ok i) ↔ ∃ r ∈ opcodeMap, r.selects w = true := by
  constructor
  · rintro ⟨i, hi⟩
    obtain ⟨hsel, -⟩ := decode_ok hi
    exact ⟨i.row, i.row_mem, hsel⟩
  · rintro ⟨r, hr, hsel⟩
    exact decode_selected hr hsel

/-- Settles O4: the table written out is the rows of the opcode map, one after the other. -/
theorem decoderAcceptsExactlyTheTable : Obligations.DecoderAcceptsExactlyTheTable := by
  intro w
  have hfull : w &&& 0xFFFFFFFF = w := BitVec.and_allOnes
  simp only [decode_ok_iff, opcodeMap, List.mem_cons, List.not_mem_nil, or_false, exists_eq_or_imp, exists_eq_left,
    OpRow.selects, beq_iff_eq, rowNop, rowSreset, rowCfgwr, rowCfgrd, rowRbPush, rowRbView, rowFirStep, rowDlyStep,
    rowPassStep, rowToneStep, rowChAdv, rowEvt, rowRun, hfull]

/-- Settles O5: the decoder runs on the eight words. -/
theorem decodesWordsOfEveryUnit : Obligations.DecodesWordsOfEveryUnit := by
  refine ⟨?_, ?_, ?_, ?_, ?_, ?_, ?_, ?_⟩ <;> decide

namespace Machine

/-! ## The word presented next (R70, R75) -/

theorem present_of_decode_ok {w : Word} {i : Instr} (h : decode w = .ok i) (s : State) : present w s = exec i s := by
  rw [present, h]

theorem present_of_decode_error {w : Word} {e : Illegal} (h : decode w = .error e) (s : State) :
    present w s = .next (s.reject .illop) := by
  rw [present, h]

/-- Settles O6: the step takes the word from the stream and presents it. -/
theorem stepRunsTheDecodedOperation : Obligations.StepRunsTheDecodedOperation := by
  intro s w rest hvalid hinput
  have hstep : step s = present w { s with input := rest } := step_word hvalid hinput
  exact ⟨hstep, fun i hi => hstep.trans (present_of_decode_ok hi _),
    fun e he => hstep.trans (present_of_decode_error he _)⟩

/-! ## The response word (R73) -/

theorem toNat_or_setWidth {c : Word} {k : Nat} (hc : c.toNat = 2 ^ 16 * k) (data : BitVec 16) :
    (c ||| data.setWidth 32).toNat = c.toNat + data.toNat := by
  rw [BitVec.toNat_or, BitVec.toNat_setWidth_of_le (by decide), hc, Nat.two_pow_add_eq_or_of_lt data.isLt]

/-- Settles O14: the bits above `data` are a multiple of 2 ^ 16. -/
theorem responseWordLayout : Obligations.ResponseWordLayout := by
  intro ok flag data
  have hhigh : ((BitVec.ofBool ok).setWidth 32 <<< 31 ||| (BitVec.ofBool flag).setWidth 32 <<< 16 : Word).toNat =
      2 ^ 16 * (ok.toNat * 2 ^ 15 + flag.toNat) := by
    cases ok <;> cases flag <;> rfl
  rw [responseWord, toNat_or_setWidth hhigh, hhigh]
  omega

/-! ## How an operation ends (R74, R75, R76) -/

/-- The operands for which a decoded operation is rejected with `ILLOP` (R75 items 3 to 5). -/
def State.illegalOperands (s : State) : Instr → Prop
  | .cfgwr addr data => addr ≠ 0 ∨ data.extractLsb' 3 13 ≠ 0
  | .cfgrd addr => 4 < addr
  | .rbView buf _ off => s.en = false ∧ s.busy = false ∧ capacity s.params buf ≤ off
  | _ => False

/-- The lock comes before the check of the operands (R77). -/
theorem State.unlocked_of_illegalOperands {s : State} {i : Instr} (h : s.illegalOperands i) (hi : i.isUnit = true) :
    s.en = false ∧ s.busy = false := by
  cases i
  case rbView =>
    obtain ⟨he, hb, -⟩ := h
    exact ⟨he, hb⟩
  case cfgwr => cases hi
  case cfgrd => cases hi
  all_goals exact h.elim

/-- `Ends s i t`: operation `i` may take `s` to `t`. It is rejected with `ILLOP` or `LOCKED`, is a `RUN` with nothing to
serve, writes `CTRL`, or answers `ok` and raises no flag. Where `OpEffect` says what becomes of the state, this says
what is answered and why a flag rises. -/
inductive Ends (s : State) : Instr → State → Prop where
  | illegal {i : Instr} (h : s.illegalOperands i) : Ends s i (s.reject .illop)
  | locked {i : Instr} (hi : i.isUnit = true) (h : s.en = true ∨ s.busy = true) : Ends s i (s.reject .locked)
  | idle (rxr txr : Bool) (x : Sample) (hb : s.busy = false) : Ends s (.run rxr txr x) (s.answer 0)
  | control {data : BitVec 16} (h : data.extractLsb' 3 13 = 0) :
      Ends s (.cfgwr 0 data) ((s.writeCtrl data).respond false 0)
  | accepted {i : Instr} (u : State) (flag : Bool) (data : BitVec 16) (hlegal : ¬ s.illegalOperands i)
      (hresponses : u.responses = s.responses) (hillop : u.illop = true → s.illop = true)
      (hlocked : u.locked = true → s.locked = true) : Ends s i (u.respond flag data)

/-- An effect that leaves the responses and both flags alone. -/
theorem Ends.of_frame {s : State} {i : Instr} (u : State) (flag : Bool) (data : BitVec 16)
    (hlegal : ¬ s.illegalOperands i) (hresponses : u.responses = s.responses) (hillop : u.illop = s.illop)
    (hlocked : u.locked = s.locked) : Ends s i (u.respond flag data) :=
  .accepted u flag data hlegal hresponses (fun h => hillop ▸ h) (fun h => hlocked ▸ h)

/-- A unit operation is refused while armed or busy, so only its unlocked end is left to show. -/
theorem ends_unit {i : Instr} {s : State} (hi : i.isUnit = true)
    (hfree : s.en = false → s.busy = false → ∃ t, Ends s i t ∧ exec i s = .next t) :
    ∃ t, Ends s i t ∧ exec i s = .next t := by
  by_cases hlock : s.en = true ∨ s.busy = true
  · obtain ⟨f, hf⟩ := exec_unit hi
    exact ⟨_, .locked hi hlock, (hf s).trans (unitOp_locked f hlock)⟩
  · simp only [not_or, Bool.not_eq_true] at hlock
    exact hfree hlock.1 hlock.2

/-- An engine step from the command port. -/
theorem Ends.engine (s : State) {i : Instr} (hlegal : ¬ s.illegalOperands i) (m : Mode) (c : Channel) (x : Sample) :
    Ends s i (respondOutput (s.engine m c x)) :=
  .of_frame _ _ _ hlegal (by simp) (by simp) (by simp)

/-- The registers are mapped up to address 4 (R215, R216). -/
theorem State.reg_eq_none_iff {s : State} {addr : Nat} : s.reg addr = none ↔ 4 < addr := by
  unfold State.reg
  split_ifs <;> simp only [true_iff, false_iff] <;> omega

theorem exec_ends (i : Instr) (s : State) : ∃ t, Ends s i t ∧ exec i s = .next t := by
  cases i
  case nop => exact ⟨_, .of_frame s _ _ id rfl rfl rfl, rfl⟩
  case sreset => exact ⟨_, .accepted s.resetMachine _ _ id rfl nofun nofun, rfl⟩
  case cfgwr addr data =>
    simp only [exec, execCfgwr]
    split_ifs with h
    · obtain ⟨rfl, hdata⟩ := h
      exact ⟨_, .control hdata, rfl⟩
    · exact ⟨_, .illegal (not_and_or.1 h), rfl⟩
  case cfgrd addr =>
    simp only [exec, execCfgrd]
    cases hreg : s.reg addr
    case some v => exact ⟨_, .of_frame s _ _ (fun h => by simp [State.reg_eq_none_iff.2 h] at hreg) rfl rfl rfl, rfl⟩
    case none => exact ⟨_, .illegal (State.reg_eq_none_iff.1 hreg), rfl⟩
  case rbPush buf x =>
    refine ends_unit rfl fun he hb => ⟨_, ?_, exec_rbPush_unlocked buf x he hb⟩
    exact .of_frame _ _ _ id (by simp) (by simp) (by simp)
  case rbView buf ord off =>
    refine ends_unit rfl fun he hb => ?_
    rw [exec_rbView_unlocked buf ord off he hb, State.viewOp]
    split_ifs with hoff
    · exact ⟨_, .of_frame s _ _ (fun ⟨_, _, h⟩ => Nat.not_lt.2 h hoff) rfl rfl rfl, rfl⟩
    · exact ⟨_, .illegal ⟨he, hb, Nat.not_lt.1 hoff⟩, rfl⟩
  case firStep c x => exact ends_unit rfl fun he hb => ⟨_, .engine s id .fir c x, exec_firStep_unlocked c x he hb⟩
  case dlyStep c x => exact ends_unit rfl fun he hb => ⟨_, .engine s id .delay c x, exec_dlyStep_unlocked c x he hb⟩
  case passStep c x =>
    exact ends_unit rfl fun he hb => ⟨_, .engine s id .passthrough c x, exec_passStep_unlocked c x he hb⟩
  case toneStep c => exact ends_unit rfl fun he hb => ⟨_, .engine s id .tone c 0, exec_toneStep_unlocked c he hb⟩
  case chAdv =>
    exact ends_unit rfl fun he hb => ⟨_, .of_frame s.chAdvance _ _ id rfl rfl rfl, exec_chAdv_unlocked he hb⟩
  case evt =>
    simp only [exec, execEvt]
    split_ifs
    · exact ⟨_, .of_frame s.countOverrun _ _ id rfl rfl rfl, rfl⟩
    · exact ⟨_, .of_frame s.acceptEvent _ _ id rfl rfl rfl, rfl⟩
    · exact ⟨_, .of_frame s _ _ id rfl rfl rfl, rfl⟩
  case run rxr txr x =>
    simp only [exec, execRun]
    split_ifs with hb
    · exact ⟨_, .of_frame (s.serve rxr txr x) _ _ id (by simp [State.serve]) (by simp) (by simp), rfl⟩
    · exact ⟨_, .idle rxr txr x (Bool.eq_false_of_not_eq_true hb), rfl⟩

theorem ends_of_exec {i : Instr} {s t : State} (h : exec i s = .next t) : Ends s i t := by
  obtain ⟨u, hu, hexec⟩ := exec_ends i s
  exact Host.Outcome.next.inj (hexec.symm.trans h) ▸ hu

namespace Ends

variable {s t : State} {i : Instr}

/-- The one response is `reject`'s 0 or an answer with `ok` (R73, R74). -/
theorem response (h : Ends s i t) :
    ∃ r, t.responses = s.responses ++ [r] ∧ (r = 0 ∨ ∃ flag data, r = responseWord true flag data) := by
  cases h with
  | illegal => exact ⟨0, rfl, .inl rfl⟩
  | locked => exact ⟨0, rfl, .inl rfl⟩
  | idle => exact ⟨0, rfl, .inl rfl⟩
  | control => exact ⟨responseWord true false 0, by simp, .inr ⟨false, 0, rfl⟩⟩
  | accepted u flag data _ hresponses => exact ⟨_, by simp [hresponses], .inr ⟨flag, data, rfl⟩⟩

/-- With illegal operands there is one end: the four others need legal ones. -/
theorem eq_reject_illop (h : Ends s i t) (hi : s.illegalOperands i) : t = s.reject .illop := by
  cases h with
  | illegal => rfl
  | locked hunit hlock =>
    obtain ⟨he, hb⟩ := State.unlocked_of_illegalOperands hi hunit
    simp [he, hb] at hlock
  | idle => exact hi.elim
  | control hdata => simp [State.illegalOperands, hdata] at hi
  | accepted _ _ _ hlegal => exact absurd hi hlegal

theorem illop_of_legal (h : Ends s i t) (hi : ¬ s.illegalOperands i) (ht : t.illop = true) : s.illop = true := by
  cases h with
  | illegal hill => exact absurd hill hi
  | locked => exact ht
  | idle => exact ht
  | control => simpa using ht
  | accepted _ _ _ _ _ hillop => exact hillop ht

/-- `LOCKED` rises by the lock, or by a write of `CTRL` that asks for another mode while armed (R35, R213). -/
theorem locked_rises (h : Ends s i t) (hs : s.locked = false) (ht : t.locked = true) :
    (i.isUnit = true ∧ (s.en = true ∨ s.busy = true)) ∨
    (∃ data : BitVec 16, i = .cfgwr 0 data ∧ s.en = true ∧ data.extractLsb' 1 2 ≠ modeBits s.mode ∧
      t.responses = s.responses ++ [0x80000000]) := by
  have hclear : ¬ s.locked = true := by simp [hs]
  cases h with
  | illegal => exact absurd ht hclear
  | locked hunit hlock => exact .inl ⟨hunit, hlock⟩
  | idle => exact absurd ht hclear
  | @control data =>
    obtain ⟨hen, hmode⟩ : s.en = true ∧ modeOfBits (data.extractLsb' 1 2) ≠ s.mode := by
      simpa [State.writeCtrl_locked, hs] using ht
    refine .inr ⟨data, rfl, hen, fun hbits => hmode ?_, congrArg (· ++ [0x80000000]) (s.writeCtrl_responses data)⟩
    rw [hbits, modeOfBits_modeBits]
  | accepted _ _ _ _ _ _ hlocked => exact absurd (hlocked ht) hclear

end Ends

/-- A presented word is answered once, as `reject` or an operation answers. -/
theorem present_response {w : Word} {s t : State} (h : present w s = .next t) :
    ∃ r, t.responses = s.responses ++ [r] ∧ (r = 0 ∨ ∃ flag data, r = responseWord true flag data) := by
  cases hw : decode w with
  | error e =>
    rw [present_of_decode_error hw] at h
    exact ⟨0, Host.Outcome.next.inj h ▸ rfl, .inl rfl⟩
  | ok i =>
    rw [present_of_decode_ok hw] at h
    exact (ends_of_exec h).response

/-- Settles O13: the one response is 0 or has `ok` set, and no answer sets a bit of 30:17. -/
theorem oneResponsePerWord : Obligations.OneResponsePerWord := by
  intro w s t h
  obtain ⟨r, hr, hshape⟩ := present_response h
  refine ⟨r, hr, ?_⟩
  obtain rfl | ⟨flag, data, rfl⟩ := hshape
  · exact ⟨rfl, fun _ => rfl⟩
  · exact ⟨responseWord_zeros true flag data, fun hok => nomatch (responseWord_ok true flag data).symm.trans hok⟩

/-! ## Rejection with `ILLOP` (R75) -/

/-- A word that selects no row, or whose operation has illegal operands (R75). -/
def State.illegalWord (s : State) (w : Word) : Prop :=
  (∀ r ∈ opcodeMap, w &&& r.mask ≠ r.pattern) ∨ ∃ i, decode w = .ok i ∧ s.illegalOperands i

/-- The operations with operands to check are three (R75). -/
theorem State.illegalWord_iff {s : State} {w : Word} : s.illegalWord w ↔
    (∀ r ∈ opcodeMap, w &&& r.mask ≠ r.pattern) ∨
    (∃ addr data, decode w = .ok (.cfgwr addr data) ∧ (addr ≠ 0 ∨ data.extractLsb' 3 13 ≠ 0)) ∨
    (∃ addr, decode w = .ok (.cfgrd addr) ∧ 4 < addr) ∨
    (∃ buf ord off, decode w = .ok (.rbView buf ord off) ∧ s.en = false ∧ s.busy = false ∧
      capacity s.params buf ≤ off) := by
  refine or_congr_right ⟨?_, ?_⟩
  · rintro ⟨i, hi, hill⟩
    cases i
    case cfgwr addr data => exact .inl ⟨addr, data, hi, hill⟩
    case cfgrd addr => exact .inr (.inl ⟨addr, hi, hill⟩)
    case rbView buf ord off => exact .inr (.inr ⟨buf, ord, off, hi, hill⟩)
    all_goals exact hill.elim
  · rintro (⟨addr, data, hi, hill⟩ | ⟨addr, hi, hill⟩ | ⟨buf, ord, off, hi, hill⟩)
    exacts [⟨_, hi, hill⟩, ⟨_, hi, hill⟩, ⟨_, hi, hill⟩]

theorem selects_none_iff {w : Word} : (∀ r ∈ opcodeMap, w &&& r.mask ≠ r.pattern) ↔ ∀ i, decode w ≠ .ok i := by
  have h := not_congr (decode_ok_iff (w := w))
  push Not at h
  simpa [OpRow.selects] using h.symm

theorem State.illegalWord_of_error (s : State) {w : Word} {e : Illegal} (h : decode w = .error e) : s.illegalWord w :=
  .inl (selects_none_iff.2 fun i => by simp [h])

theorem State.illegalWord_iff_of_ok (s : State) {w : Word} {i : Instr} (h : decode w = .ok i) :
    s.illegalWord w ↔ s.illegalOperands i := by
  simp [State.illegalWord, selects_none_iff, h]

/-- Settles O15: a word that is no operation is illegal and rejected; an operation ends as its operands allow. -/
theorem rejectsIllopExactlyWhenIllegal : Obligations.RejectsIllopExactlyWhenIllegal := by
  intro w s t h
  simp only [← State.illegalWord_iff]
  cases hw : decode w with
  | error e =>
    rw [present_of_decode_error hw] at h
    exact ⟨fun _ => (Host.Outcome.next.inj h).symm, fun hlegal => absurd (s.illegalWord_of_error hw) hlegal⟩
  | ok i =>
    rw [present_of_decode_ok hw] at h
    rw [s.illegalWord_iff_of_ok hw]
    exact ⟨(ends_of_exec h).eq_reject_illop, (ends_of_exec h).illop_of_legal⟩

/-! ## The lock (R76) -/

/-- Settles O16: a unit operation is locked as a whole, and no other end but a write of `CTRL` raises `LOCKED`. -/
theorem locksExactlyUnitOperations : Obligations.LocksExactlyUnitOperations := by
  intro i s t h
  refine ⟨fun hunit hlock => ?_, (ends_of_exec h).locked_rises⟩
  obtain ⟨f, hf⟩ := exec_unit hunit
  exact Host.Outcome.next.inj (h.symm.trans ((hf s).trans (unitOp_locked f hlock)))

/-- Settles O56: of the effects on the pipeline state, the foreground's but reset need a disarmed, idle machine, and the
others are those of `EVT` and `RUN`. -/
theorem foregroundShutOutWhileArmedOrBusy : Obligations.ForegroundShutOutWhileArmedOrBusy := by
  intro i s t hagent hreset hlock h
  obtain ⟨u, w, hu, rfl⟩ := exec_next_effect h
  have hopen : s.en = false → s.busy = false → False := fun he hb => by simp [he, hb] at hlock
  cases hu with
  | unchanged => simp
  | flagged => simp
  | reset => exact absurd rfl hreset
  | control data => simp +contextual [State.writeCtrl_mode]
  | pushed _ _ he hb => exact (hopen he hb).elim
  | stepped _ _ _ _ he hb => exact (hopen he hb).elim
  | advanced he hb => exact (hopen he hb).elim
  | overran => cases hagent
  | opened => cases hagent
  | served => cases hagent

end Machine

end Sys2Proof
end

section
/-! SUPPORT. The statements about the ring buffers (spec/40_ring_buffer.md): what RB.PUSH and RB.VIEW do (R107, R108),
the two views as one sequence (R105), and what the view shows after any sequence of insertions (R106). -/

namespace Sys2Proof.Machine

/-! ## RB.PUSH (R102, R107) -/

@[simp] theorem State.buffer_respond (s : State) (flag : Bool) (data : BitVec 16) (b : BufId) :
    (s.respond flag data).buffer b = s.buffer b := (storeFree_respond flag data).buffer s b

section
variable (s : State) (buf : BufId) (x : Sample)

theorem State.pushOp_buffer_same :
    (s.pushOp buf x).buffer buf = (rbPush (capacity s.params buf) (s.buffer buf) x).1 := by
  simp [State.pushOp]

theorem State.pushOp_buffer_ne {j : BufId} (hj : j ≠ buf) : (s.pushOp buf x).buffer j = s.buffer j := by
  rw [State.pushOp, State.buffer_respond, State.buffer_setBuffer_ne s _ hj]

/-- The evicted Sample is answered, or none while the buffer is not yet full (R103). -/
theorem State.pushOp_responses : (s.pushOp buf x).responses = s.responses ++
    [if (s.buffer buf).fill = capacity s.params buf
      then responseWord true true ((s.buffer buf).slot.read (s.buffer buf).cur) else responseWord true false 0] := by
  by_cases hfull : (s.buffer buf).fill = capacity s.params buf
  · simp [State.pushOp, hfull]
  · simp [State.pushOp, hfull, beq_false_of_ne hfull]

theorem State.pushOp_frame :
    { s.pushOp buf x with fir := s.fir, dly := s.dly, responses := s.responses } = s := by
  cases buf <;> rfl

end

/-- Settles O23: one insertion into one buffer, read slot by slot, and its answer. -/
theorem pushInsertsOneSample : Obligations.PushInsertsOneSample := by
  intro s buf x hwf he hb
  have hbuf := s.pushOp_buffer_same buf x
  refine ⟨s.pushOp buf x, exec_rbPush_unlocked buf x he hb, fun i => ?_, ?_, ?_, s.pushOp_responses buf x,
    fun j hj => s.pushOp_buffer_ne buf x hj, s.pushOp_frame buf x⟩
  · rw [hbuf, rbPush_read x i (State.wf_buffer hwf buf)]
  · rw [hbuf, rbPush_cur]
  · rw [hbuf, rbPush_fill]

/-! ## The engines' own insertions (R109) -/

/-- The FIR engine changes the state as an insertion of its input does. -/
theorem State.firStep_eq_push (s : State) (c : Channel) (x : Sample) : (s.firStep c x).1 =
    s.setBuffer (firBuffer c) (rbPush (capacity s.params (firBuffer c)) (s.buffer (firBuffer c)) x).1 := by
  rw [s.firStep_eq_setBuffer, capacity_firBuffer, firEngine]

/-- The delay engine changes the state as an insertion of its output does. -/
theorem State.dlyStep_eq_push (s : State) (c : Channel) (x : Sample) : (s.dlyStep c x).1 =
    s.setBuffer (dlyBuffer c)
      (rbPush (capacity s.params (dlyBuffer c)) (s.buffer (dlyBuffer c)) (s.dlyStep c x).2).1 := by
  rw [s.dlyStep_eq_setBuffer, capacity_dlyBuffer, dlyEngine]

/-- A direct push of the Sample that an engine step inserts leaves the state of that step, but for the answer. -/
theorem exec_rbPush_of_engine {s t u : State} {buf : BufId} {x : Sample} (he : s.en = false) (hb : s.busy = false)
    (hu : u = s.setBuffer buf (rbPush (capacity s.params buf) (s.buffer buf) x).1)
    (h : exec (.rbPush buf x) s = .next t) : t.fir = u.fir ∧ t.dly = u.dly := by
  have ht : t = s.pushOp buf x := Host.Outcome.next.inj (h.symm.trans (exec_rbPush_unlocked buf x he hb))
  rw [ht, hu, State.pushOp]
  exact ⟨rfl, rfl⟩

/-- Settles O28: both engines change the state as a direct push of what they insert. -/
theorem directPushIsEngineHistory : Obligations.DirectPushIsEngineHistory := fun s _ x he hb =>
  ⟨fun h => (exec_rbPush_of_engine he hb (s.firStep_eq_push .left x) h).1,
    fun h => (exec_rbPush_of_engine he hb (s.firStep_eq_push .right x) h).1,
    fun h => (exec_rbPush_of_engine he hb (s.dlyStep_eq_push .left x) h).2,
    fun h => (exec_rbPush_of_engine he hb (s.dlyStep_eq_push .right x) h).2⟩

/-! ## RB.VIEW (R104, R105, R108) -/

theorem exec_rbView_of_lt {s : State} {buf : BufId} {off : Nat} (ord : ViewOrder) (he : s.en = false)
    (hb : s.busy = false) (hoff : off < capacity s.params buf) : exec (.rbView buf ord off) s =
      .next (s.respond false (rbView (capacity s.params buf) (s.buffer buf) ord off)) := by
  rw [exec_rbView_unlocked buf ord off he hb, State.viewOp, if_pos hoff]

theorem exec_rbView_of_le {s : State} {buf : BufId} {off : Nat} (ord : ViewOrder) (he : s.en = false)
    (hb : s.busy = false) (hoff : capacity s.params buf ≤ off) :
    exec (.rbView buf ord off) s = .next (s.reject .illop) := by
  rw [exec_rbView_unlocked buf ord off he hb, State.viewOp, if_neg (Nat.not_lt.2 hoff)]

/-- Settles O24: the offset decides between the element and the rejection, in either order. -/
theorem viewReadsOneElement : Obligations.ViewReadsOneElement := fun _ _ _ he hb =>
  ⟨fun hoff => ⟨exec_rbView_of_lt .oldestFirst he hb hoff, exec_rbView_of_lt .newestFirst he hb hoff⟩,
    fun hoff ord => exec_rbView_of_le ord he hb hoff⟩

/-- Settles O25: the mirror image of the mirror image is the offset itself. -/
theorem viewsAreMirrorImages : Obligations.ViewsAreMirrorImages := by
  intro n b k hk
  have hmirror : n - 1 - (n - 1 - k) = k := by omega
  rw [rbViewO_eq_rbViewN (by omega), hmirror]

/-! ## The view after a sequence of insertions (R106) -/

/-- An element that `ps` does not push out of the view has moved by the length of `ps`. -/
theorem rbViewO_pushAll_of_lt {n i : Nat} (ps : List Sample) {b : RingBuffer} (h : b.wf n = true)
    (hi : i + ps.length < n) : rbViewO n (pushAll n b ps) i = rbViewO n b (i + ps.length) := by
  induction ps generalizing b with
  | nil => rfl
  | cons x xs ih =>
    rw [List.length_cons] at hi ⊢
    rw [pushAll, ih (rbPush_wf x h) (by omega), rbViewO_push x (by omega) h, if_neg (by omega), Nat.add_assoc]

/-- The elements behind those are the last Samples of `ps`: offset `n - 1` shows the last one. -/
theorem getElem?_of_rbViewO_pushAll {n i : Nat} (ps : List Sample) {b : RingBuffer} (h : b.wf n = true)
    (hi : i < n) (hps : n ≤ i + ps.length) :
    ps[i + ps.length - n]? = some (rbViewO n (pushAll n b ps) i) := by
  induction ps generalizing b with
  | nil => exact absurd hps (by simpa using hi)
  | cons x xs ih =>
    rw [List.length_cons] at hps ⊢
    by_cases hxs : n ≤ i + xs.length
    · have hindex : i + (xs.length + 1) - n = (i + xs.length - n) + 1 := by omega
      rw [hindex, List.getElem?_cons_succ, pushAll]
      exact ih (rbPush_wf x h) hxs
    · have hindex : i + (xs.length + 1) - n = 0 := by omega
      rw [hindex, List.getElem?_cons_zero, pushAll, rbViewO_pushAll_of_lt xs (rbPush_wf x h) (by omega),
        rbViewO_push x (by omega) h, if_pos (by omega)]

/-- Settles O26: the elements that the insertions did not push out of the view of the reset buffer are its zeros. -/
theorem viewShowsTheLastInserted : Obligations.ViewShowsTheLastInserted := by
  intro n ps i hi
  have hwf : RingBuffer.empty.wf n = true := RingBuffer.empty_wf (by omega)
  refine ⟨fun hps => ?_, fun hps hzero => ?_, fun hps hshown => ?_⟩
  · have hindex : ps.length - n + i = i + ps.length - n := by omega
    rw [hindex]
    exact getElem?_of_rbViewO_pushAll ps hwf hi (by omega)
  · rw [rbViewO_pushAll_of_lt ps hwf (by omega), rbViewO_empty]
  · have hindex : i - (n - ps.length) = i + ps.length - n := by omega
    rw [hindex]
    exact getElem?_of_rbViewO_pushAll ps hwf hi (by omega)

end Sys2Proof.Machine
end

section
/-! SUPPORT. The statements about the FIR engine (spec/41_fir.md): the range of `q15mul` (R121), what FIR.STEP does
(R122, R126), the outputs from reset as a convolution (R125, R127), and the independence of the channels (R128), with
that of the delay engine (spec/42_delay.md R146). -/

namespace Sys2Proof.Machine

/-! ## The Q15 product (R120, R121) -/

/-- -1 times a Sample, the one product that can leave the range of a Sample. -/
theorem q15mul_of_toInt_min {a : Sample} (ha : a.toInt = -32768) (b : Sample) : q15mul a b = -b.toInt := by
  rw [q15mul, sar, sext32, sext32, ha]
  omega

/-- Without a factor -1 the product has a magnitude below 2^30. -/
theorem abs_toInt_mul_le {a : Sample} (ha : a.toInt ≠ -32768) (b : Sample) :
    |a.toInt * b.toInt| ≤ 32767 * 32768 := by
  have hlow : -32768 ≤ a.toInt := a.le_toInt
  have hhigh : a.toInt < 32768 := a.toInt_lt
  rw [abs_mul]
  exact mul_le_mul (abs_le.2 ⟨by omega, by omega⟩) (abs_le.2 ⟨b.le_toInt, b.toInt_lt.le⟩) (abs_nonneg _) (by decide)

theorem q15mul_mem_of_toInt_ne_min {a : Sample} (ha : a.toInt ≠ -32768) (b : Sample) :
    -32767 ≤ q15mul a b ∧ q15mul a b ≤ 32767 := by
  obtain ⟨hlow, hhigh⟩ := abs_le.1 (abs_toInt_mul_le ha b)
  rw [q15mul, sar, sext32, sext32]
  omega

theorem q15mul_comm (a b : Sample) : q15mul a b = q15mul b a := by
  rw [q15mul, q15mul, mul_comm]

/-- Settles O29: a product with -1 is the other factor negated, and every other product is in the range. -/
theorem q15MulRange : Obligations.Q15MulRange := by
  intro a b
  have hlow : -32768 ≤ b.toInt := b.le_toInt
  have hhigh : b.toInt < 32768 := b.toInt_lt
  by_cases ha : a.toInt = -32768
  · have hneg := q15mul_of_toInt_min ha b
    exact ⟨by omega, by omega, q15mul_comm a b, by omega⟩
  · obtain ⟨hmin, hmax⟩ := q15mul_mem_of_toInt_ne_min ha b
    exact ⟨hmin, by omega, q15mul_comm a b, by omega⟩

/-! ## The accumulated sum (R122, R123) -/

theorem firAcc_eq_sum (p : Params) (b : RingBuffer) (m : Nat) :
    firAcc p b m = ∑ k ∈ Finset.range m, q15mul (tableRead p.coef k) (rbViewN p.nTaps b k) := by
  induction m with
  | zero => rfl
  | succ m ih => rw [firAcc, ih, Finset.sum_range_succ]

/-- The sum over a buffer whose newest-first view shows the history `x`. -/
theorem firAcc_eq_sum_of_view {p : Params} {b : RingBuffer} {x : Nat → Sample}
    (h : ∀ k, k < p.nTaps → rbViewN p.nTaps b k = x k) :
    firAcc p b p.nTaps = ∑ k ∈ Finset.range p.nTaps, (p.coef.getD k 0).toInt * (x k).toInt / 2 ^ 15 := by
  rw [firAcc_eq_sum]
  refine Finset.sum_congr rfl fun k hk => ?_
  rw [h k (Finset.mem_range.1 hk)]
  rfl

/-! ## FIR.STEP (R122, R126) -/

/-- After an insertion the newest element is the inserted one, and the others stand where they stood. -/
theorem rbViewN_push {n k : Nat} {b : RingBuffer} (v : Sample) (hk : k < n) (h : b.wf n = true) :
    rbViewN n (rbPush n b v).1 k = if k = 0 then v else b.slot.read ((b.cur + n - k) % n) := by
  cases k with
  | zero => exact rbViewN_push_zero v h
  | succ k =>
    have hindex : b.cur + (n - 1 - k) = b.cur + n - (k + 1) := by omega
    rw [rbViewN_push_succ v hk h, rbViewN_eq (by omega), hindex, if_neg k.succ_ne_zero]

section
variable (s : State) (c : Channel) (x : Sample)

theorem State.firStep_get_same : (s.firStep c x).1.fir.get c = (rbPush s.params.nTaps (s.fir.get c) x).1 :=
  Stereo.get_set_same _ _ _

theorem State.firStep_get_next : (s.firStep c x).1.fir.get (nextChannel c) = s.fir.get (nextChannel c) :=
  Stereo.get_set_next _ _ _

theorem State.dlyStep_get_next : (s.dlyStep c x).1.dly.get (nextChannel c) = s.dly.get (nextChannel c) :=
  Stereo.get_set_next _ _ _

end

/-- Settles O30: the sum runs over the view after the insertion, and the insertion writes one slot. -/
theorem firStepConvolves : Obligations.FirStepConvolves := by
  intro s c x hwf he hb b n newest
  have hbuf : b.wf n = true := State.wf_fir hwf c
  have hsame := s.firStep_get_same c x
  have hsum := firAcc_eq_sum_of_view (p := s.params) fun k hk => rbViewN_push x hk hbuf
  refine ⟨respondOutput (s.firStep c x), exec_firStep_unlocked c x he hb, fun i => ?_, ?_, ?_, ?_,
    s.firStep_get_next c x, rfl⟩
  · rw [respondOutput, State.respond_fir, hsame, rbPush_read x i hbuf]
  · rw [respondOutput, State.respond_fir, hsame, rbPush_cur]
  · rw [respondOutput, State.respond_fir, hsame, rbPush_fill]
  · exact congrArg (fun v => s.responses ++ [responseWord true false (wrap16 v)]) hsum

/-! ## The outputs from reset (R125, R127) -/

/-- Output `m` is the sum over the buffer that holds the inputs up to `m`. -/
theorem firAll_getElem? {p : Params} {m : Nat} (xs : List Sample) {b : RingBuffer} (hm : m < xs.length) :
    (firAll p b xs).2[m]? = some (wrap16 (firAcc p (pushAll p.nTaps b (xs.take (m + 1))) p.nTaps)) := by
  induction xs generalizing b m with
  | nil => exact absurd hm (Nat.not_lt_zero m)
  | cons x xs ih =>
    cases m with
    | zero => rfl
    | succ m => exact ih (Nat.lt_of_succ_lt_succ hm)

/-- Newest first, a buffer filled from reset shows the inserted Samples from the last one back, then zeros. -/
theorem rbViewN_pushAll_empty {n k : Nat} (ps : List Sample) (hk : k < n) :
    rbViewN n (pushAll n .empty ps) k = if k < ps.length then ps.getD (ps.length - 1 - k) 0 else 0 := by
  have hwf : RingBuffer.empty.wf n = true := RingBuffer.empty_wf (by omega)
  rw [viewsAreMirrorImages n _ k hk]
  split_ifs with hps
  · have hindex : ps.length - 1 - k = n - 1 - k + ps.length - n := by omega
    rw [hindex, List.getD_eq_getElem?_getD, getElem?_of_rbViewO_pushAll ps hwf (by omega) (by omega),
      Option.getD_some]
  · rw [rbViewO_pushAll_of_lt ps hwf (by omega), rbViewO_empty]

/-- Settles O31: the buffer behind output `n` shows the inputs from the `n`-th back to the first, then zeros. -/
theorem firIsConvolutionFromReset : Obligations.FirIsConvolutionFromReset := by
  intro p xs n _ hn
  have hlength : (xs.take (n + 1)).length = n + 1 := List.length_take_of_le hn
  have hview (k : Nat) (hk : k < p.nTaps) : rbViewN p.nTaps (pushAll p.nTaps .empty (xs.take (n + 1))) k =
      if k ≤ n then xs.getD (n - k) 0 else 0 := by
    have hinput : (xs.take (n + 1)).getD (n - k) 0 = xs.getD (n - k) 0 := by
      rw [List.getD_eq_getElem?_getD, List.getElem?_take_of_lt (by omega), List.getD_eq_getElem?_getD]
    rw [rbViewN_pushAll_empty _ hk, hlength, Nat.add_sub_cancel, hinput]
    simp only [Nat.lt_succ_iff]
  rw [firAll_getElem? xs hn, firAcc_eq_sum_of_view hview]
  simp only [apply_ite BitVec.toInt]
  rfl

/-! ## The channels (R128, R146) -/

/-- Settles O33: a step writes its own channel's buffer only, and the other channel's step reads and writes the other
buffer only. -/
theorem engineChannelsIndependent : Obligations.EngineChannelsIndependent := by
  intro s c x x' c'
  refine ⟨s.firStep_get_next c x, ?_, ?_, s.dlyStep_get_next c x, ?_, ?_⟩
  · exact congrArg (fun b => (firEngine s.params b x').2) (s.firStep_get_next c x)
  · simp [c', State.firStep, Stereo.set_comm]
  · exact congrArg (fun b => (dlyEngine s.params b x').2) (s.dlyStep_get_next c x)
  · simp [c', State.dlyStep, Stereo.set_comm]

end Sys2Proof.Machine
end

section
/-! SUPPORT. The statements about the delay engine (spec/42_delay.md): the attenuation as a shift-and-add and its range
(R140), what DLY.STEP does (R141, R144), the recurrence of the outputs and the echoes of an impulse (R143), and the
residue that never decays (R145). -/

namespace Sys2Proof.Machine

/-! ## The attenuation (R140) -/

theorem att_eq (p : Params) (v : Sample) : att p v = (p.attNum : Int) * v.toInt / 2 ^ p.attShift := rfl

@[simp] theorem att_zero (p : Params) : att p 0 = 0 := by
  simp [att_eq]

/-- Shift-and-add over the low `j` bits multiplies by the number they form. -/
theorem shiftAdd_eq_mod_mul (num : Nat) (v : Int) (j : Nat) : shiftAdd num v j = (num % 2 ^ j : Nat) * v := by
  induction j with
  | zero => simp [shiftAdd, Nat.mod_one]
  | succ j ih =>
    rw [shiftAdd, ih, Nat.mod_pow_succ, ← Nat.toNat_testBit]
    cases num.testBit j
    · simp
    · simp only [if_true, Bool.toNat_true, Nat.mul_one]
      push_cast
      ring

/-- Settles O37: the 15 low bits are the whole of a legal `ATT_NUM`. -/
theorem attenuationIsShiftAndAdd : Obligations.AttenuationIsShiftAndAdd := by
  intro p v hp
  obtain ⟨-, hshift, -, hnum⟩ := valid_att hp
  have hbits : p.attNum < 2 ^ 15 := hnum.trans_le (Nat.pow_le_pow_right (by decide) hshift)
  have hmul : shiftAdd p.attNum v.toInt 15 = (p.attNum : Int) * v.toInt := by
    rw [shiftAdd_eq_mod_mul, Nat.mod_eq_of_lt hbits]
  exact ⟨hmul, by rw [hmul, att_eq]⟩

/-- A legal attenuation does not leave the range of a Sample. -/
theorem att_mem_sample {p : Params} (hp : p.valid = true) (v : Sample) : -32768 ≤ att p v ∧ att p v < 32768 := by
  obtain ⟨-, -, hone, hnum⟩ := valid_att hp
  have hone' : (0 : Int) < p.attNum := by exact_mod_cast hone
  have hnum' : (p.attNum : Int) < 2 ^ p.attShift := by exact_mod_cast hnum
  have hlow : (p.attNum : Int) * (-32768) ≤ p.attNum * v.toInt := mul_le_mul_of_nonneg_left v.le_toInt hone'.le
  have hhigh : (p.attNum : Int) * v.toInt < p.attNum * 32768 := mul_lt_mul_of_pos_left v.toInt_lt hone'
  have hpos : (0 : Int) < 2 ^ p.attShift := by positivity
  rw [att_eq, Int.le_ediv_iff_mul_le hpos, Int.ediv_lt_iff_lt_mul hpos]
  exact ⟨by omega, by omega⟩

theorem toInt_wrap16 {v : Int} (h : -32768 ≤ v ∧ v < 32768) : (wrap16 v).toInt = v := by
  rw [wrap16, BitVec.toInt_ofInt_eq_self (by decide) (by simpa using h.1) (by simpa using h.2)]

theorem wrap16_sext32 (x : Sample) : wrap16 (sext32 x) = x := BitVec.ofInt_toInt

/-- A negative residue rounds back to itself (R145). -/
theorem att_neg_one {p : Params} (hp : p.valid = true) : att p (-1) = -1 := by
  obtain ⟨-, -, hone, hnum⟩ := valid_att hp
  have hnum' : (p.attNum : Int) < 2 ^ p.attShift := by exact_mod_cast hnum
  have hneg : (-1 : Sample).toInt = -1 := by decide
  rw [att_eq, hneg, Int.ediv_eq_iff_of_pos (by positivity)]
  omega

/-- A positive one rounds to 0 (R145). -/
theorem att_one {p : Params} (hp : p.valid = true) : att p 1 = 0 := by
  obtain ⟨-, -, -, hnum⟩ := valid_att hp
  have hone : (1 : Sample).toInt = 1 := by decide
  rw [att_eq, hone, Int.mul_one]
  exact Int.ediv_eq_zero_of_lt (by positivity) (by exact_mod_cast hnum)

/-! ## DLY.STEP (R141, R144) -/

section
variable {p : Params} {b : RingBuffer} (x : Sample)

theorem dlyEngine_output (hb : b.wf p.d = true) :
    (dlyEngine p b x).2 = wrap16 (sext32 x + att p (b.slot.read b.cur)) := by
  rw [dlyEngine, rbViewO_zero (RingBuffer.cur_lt hb)]

/-- The output is what the line takes in: the engine is feedback. -/
theorem dlyEngine_line : (dlyEngine p b x).1 = (rbPush p.d b (dlyEngine p b x).2).1 := rfl

theorem dlyEngine_read (i : Nat) (hb : b.wf p.d = true) : (dlyEngine p b x).1.slot.read i =
    if i = b.cur then (dlyEngine p b x).2 else b.slot.read i := rbPush_read _ i hb

end

theorem State.dlyStep_get_same (s : State) (c : Channel) (x : Sample) :
    (s.dlyStep c x).1.dly.get c = (dlyEngine s.params (s.dly.get c) x).1 := Stereo.get_set_same _ _ _

/-- Settles O34: the engine reads and writes the slot at the cursor. -/
theorem delayStepFeedsBack : Obligations.DelayStepFeedsBack := by
  intro s c x hwf he hb b y
  have hline : b.wf s.params.d = true := State.wf_dly hwf c
  have hsame := s.dlyStep_get_same c x
  have hout : (dlyEngine s.params b x).2 = y := dlyEngine_output x hline
  refine ⟨respondOutput (s.dlyStep c x), exec_dlyStep_unlocked c x he hb, fun i => ?_, ?_, ?_, ?_,
    s.dlyStep_get_next c x, rfl⟩
  · rw [respondOutput, State.respond_dly, hsame, dlyEngine_read x i hline, hout]
  · rw [respondOutput, State.respond_dly, hsame, dlyEngine_line, rbPush_cur]
  · rw [respondOutput, State.respond_dly, hsame, dlyEngine_line, rbPush_fill]
  · exact congrArg (fun v => s.responses ++ [responseWord true false v]) hout

/-! ## The recurrence (R143) -/

theorem dlyAll_length {p : Params} (xs : List Sample) {b : RingBuffer} : (dlyAll p b xs).2.length = xs.length := by
  induction xs generalizing b with
  | nil => rfl
  | cons x xs ih => exact congrArg (· + 1) ih

/-- Output `n` comes from the line into which the outputs before it were inserted. -/
theorem dlyAll_getElem? {p : Params} {n : Nat} (xs : List Sample) {b : RingBuffer} (hn : n < xs.length) :
    (dlyAll p b xs).2[n]? = some (wrap16 (sext32 (xs.getD n 0) +
      att p (rbViewO p.d (pushAll p.d b ((dlyAll p b xs).2.take n)) 0))) := by
  induction xs generalizing b n with
  | nil => exact absurd hn (Nat.not_lt_zero n)
  | cons x xs ih =>
    cases n with
    | zero => rfl
    | succ n => exact ih (Nat.lt_of_succ_lt_succ hn)

/-- The recurrence from any line: before the delay has passed, what the line held is fed back in its order. -/
theorem dlyAll_recurrence {p : Params} {n : Nat} {xs : List Sample} {b : RingBuffer} (hb : b.wf p.d = true)
    (hn : n < xs.length) : (dlyAll p b xs).2[n]? = some (wrap16 (sext32 (xs.getD n 0) +
      att p (if p.d ≤ n then (dlyAll p b xs).2.getD (n - p.d) 0 else rbViewO p.d b n))) := by
  have hd : 0 < p.d := Nat.zero_lt_of_lt (RingBuffer.cur_lt hb)
  have hlength : ((dlyAll p b xs).2.take n).length = n :=
    List.length_take_of_le (by rw [dlyAll_length]; exact hn.le)
  rw [dlyAll_getElem? xs hn]
  split_ifs with hdn
  · have hold := getElem?_of_rbViewO_pushAll ((dlyAll p b xs).2.take n) hb hd (by omega)
    rw [hlength, Nat.zero_add, List.getElem?_take_of_lt (by omega)] at hold
    rw [List.getD_eq_getElem?_getD (l := (dlyAll p b xs).2), hold, Option.getD_some]
  · rw [rbViewO_pushAll_of_lt _ hb (by omega), hlength, Nat.zero_add]

/-- Settles O35: the line after reset holds zeros. -/
theorem delayRecurrenceFromReset : Obligations.DelayRecurrenceFromReset := by
  intro p xs n hp hn ys
  obtain ⟨-, hd, -⟩ := valid_pos hp
  have hrec := dlyAll_recurrence (RingBuffer.empty_wf hd) hn
  rw [rbViewO_empty, att_eq, apply_ite BitVec.toInt] at hrec
  exact hrec

/-- Where the input is 0 the output is the attenuated old output. -/
theorem dlyAll_getElem?_of_zero {p : Params} {n : Nat} {xs : List Sample} {b : RingBuffer} (hb : b.wf p.d = true)
    (hn : n < xs.length) (hx : xs.getD n 0 = 0) : (dlyAll p b xs).2[n]? = some (wrap16
      (att p (if p.d ≤ n then (dlyAll p b xs).2.getD (n - p.d) 0 else rbViewO p.d b n))) := by
  have hzero : sext32 0 = 0 := by decide
  rw [dlyAll_recurrence hb hn, hx, hzero, Int.zero_add]

/-! ## The echoes of an impulse (R143) -/

/-- Nothing is fed back before the delay has passed. -/
theorem dlyAll_impulse_of_lt {p : Params} {a : Sample} {m n : Nat} (hn : n ≤ m) (hd : n < p.d) :
    (dlyAll p .empty (a :: List.replicate m 0)).2.getD n 0 = if n = 0 then a else 0 := by
  have hinput : (a :: List.replicate m 0).getD n 0 = if n = 0 then a else 0 := by
    cases n <;> simp
  have hrec := dlyAll_recurrence (xs := a :: List.replicate m 0) (RingBuffer.empty_wf (Nat.zero_lt_of_lt hd))
    (by simpa using Nat.lt_succ_of_le hn)
  rw [if_neg (Nat.not_le.2 hd), rbViewO_empty, att_zero, Int.add_zero, wrap16_sext32, hinput] at hrec
  rw [List.getD_eq_getElem?_getD, hrec, Option.getD_some]

/-- From there on each output is the attenuated one of `D` steps before. -/
theorem toInt_dlyAll_impulse_of_le {p : Params} {a : Sample} {m n : Nat} (hp : p.valid = true) (hn : n ≤ m)
    (hdn : p.d ≤ n) : ((dlyAll p .empty (a :: List.replicate m 0)).2.getD n 0).toInt =
      att p ((dlyAll p .empty (a :: List.replicate m 0)).2.getD (n - p.d) 0) := by
  obtain ⟨-, hd, -⟩ := valid_pos hp
  obtain ⟨k, rfl⟩ : ∃ k, n = k + 1 := ⟨n - 1, by omega⟩
  have hecho := dlyAll_getElem?_of_zero (p := p) (xs := a :: List.replicate m 0) (n := k + 1)
    (RingBuffer.empty_wf hd) (by simpa using hn) (by simp)
  rw [if_pos hdn] at hecho
  rw [List.getD_eq_getElem?_getD, hecho, Option.getD_some, toInt_wrap16 (att_mem_sample hp _)]

/-- Settles O36: the first turn of the line holds the impulse alone, and each turn is the one before it attenuated. -/
theorem impulseEchoesAtMultiplesOfD : Obligations.ImpulseEchoesAtMultiplesOfD := by
  intro p a m n hp hn
  obtain ⟨-, hd, -⟩ := valid_pos hp
  induction n using Nat.strong_induction_on with
  | _ n ih =>
    by_cases hdn : p.d ≤ n
    · have hdvd : p.d ∣ n - p.d ↔ p.d ∣ n := Nat.dvd_sub_iff_left hdn dvd_rfl
      rw [toInt_dlyAll_impulse_of_le hp hn hdn, att_eq, ih (n - p.d) (by omega) (by omega), Nat.div_eq_sub_div hd hdn,
        Function.iterate_succ_apply']
      simp only [hdvd]
      split_ifs
      · rfl
      · simp
    · have hdvd : p.d ∣ n ↔ n = 0 :=
        ⟨fun h => Nat.eq_zero_of_dvd_of_lt h (by omega), fun h => h ▸ dvd_zero _⟩
      rw [dlyAll_impulse_of_lt hn (by omega), apply_ite BitVec.toInt, Nat.div_eq_of_lt (by omega)]
      simp only [hdvd]
      rfl

/-! ## The residues (R145) -/

/-- A slot that holds -1 keeps it at every step with input 0. -/
theorem dlyEngine_zero_keeps_neg_one {p : Params} {b : RingBuffer} {i : Nat} (hp : p.valid = true)
    (hb : b.wf p.d = true) (hi : b.slot.read i = -1) : (dlyEngine p b 0).1.slot.read i = -1 := by
  rw [dlyEngine_read 0 i hb]
  split_ifs with hcur
  · rw [dlyEngine_output 0 hb, ← hcur, hi, att_neg_one hp]
    rfl
  · exact hi

theorem dlyAll_zero_keeps_neg_one {p : Params} {b : RingBuffer} {i : Nat} (hp : p.valid = true)
    (hb : b.wf p.d = true) (hi : b.slot.read i = -1) (m : Nat) :
    (dlyAll p b (List.replicate m 0)).1.slot.read i = -1 := by
  induction m generalizing b with
  | zero => exact hi
  | succ m ih => exact ih (dlyEngine_wf 0 hb) (dlyEngine_zero_keeps_neg_one hp hb hi)

/-- The outputs of the slot at the cursor, one per turn of the line. -/
theorem dlyAll_zero_outputs_neg_one {p : Params} {b : RingBuffer} (hp : p.valid = true) (hb : b.wf p.d = true)
    (hcur : b.slot.read b.cur = -1) {m : Nat} (k : Nat) (hk : k * p.d < m) :
    (dlyAll p b (List.replicate m 0)).2[k * p.d]? = some (-1) := by
  have hneg : wrap16 (att p (-1)) = -1 := by rw [att_neg_one hp]; rfl
  have hrec {n : Nat} (hn : n < m) :=
    dlyAll_getElem?_of_zero (xs := List.replicate m 0) hb (by simpa using hn) (List.getD_replicate 0 hn)
  induction k with
  | zero =>
    have hcap := RingBuffer.cur_lt hb
    rw [hrec hk, if_neg (by omega), Nat.zero_mul, rbViewO_zero hcap, hcur, hneg]
  | succ k ih =>
    have hbefore : (k + 1) * p.d - p.d = k * p.d := by rw [Nat.succ_mul, Nat.add_sub_cancel]
    have hdn : p.d ≤ (k + 1) * p.d := Nat.le_mul_of_pos_left _ k.succ_pos
    rw [hrec hk, if_pos hdn, hbefore, List.getD_eq_getElem?_getD, ih (by omega), Option.getD_some, hneg]

/-- Settles O38: -1 is a fixed point of the attenuation, and 1 is attenuated to 0. -/
theorem negativeResidueNeverDecays : Obligations.NegativeResidueNeverDecays := by
  intro p b hp hb
  refine ⟨att_neg_one hp, att_one hp, fun hcur m => ⟨dlyAll_zero_keeps_neg_one hp hb hcur m,
    fun k hk => dlyAll_zero_outputs_neg_one hp hb hcur k hk⟩, fun hcur => ?_⟩
  have hout : (dlyEngine p b 0).2 = 0 := by
    rw [dlyEngine_output 0 hb, hcur, att_one hp]
    rfl
  exact ⟨hout, by rw [dlyEngine_read 0 _ hb, if_pos rfl, hout]⟩

end Sys2Proof.Machine
end

section
/-! SUPPORT. The statements about the minimal engines (spec/43_pass_tone.md): PASS.STEP hands its Sample on (R160, R161),
TONE.STEP walks the table (R163, R164), and the walk is a circle. -/

namespace Sys2Proof.Machine

/-! ## PASS.STEP (R160, R161) -/

/-- Settles O39: the engine hands on the state it is given, so the answer is all that is new. -/
theorem passStepAnswersItsSample : Obligations.PassStepAnswersItsSample :=
  fun _ c x he hb => exec_passStep_unlocked c x he hb

/-! ## TONE.STEP (R163, R164) -/

/-- An index below `TONE_LEN` names an entry of the table (R6, R7). -/
theorem tone_getElem? {p : Params} {i : Nat} (hp : p.valid = true) (hi : i < p.toneLen) :
    p.tone[i]? = some (tableRead p.tone i) := by
  have hlength : i < p.tone.length := (valid_lengths hp).2 ▸ hi
  rw [tableRead, List.getD_eq_getElem?_getD, List.getElem?_eq_getElem hlength, Option.getD_some]

section
variable (s : State) (c : Channel)

theorem State.toneStep_output : (s.toneStep c).2 = tableRead s.params.tone (s.toneIdx.get c) := rfl

theorem State.toneStep_get_same : (s.toneStep c).1.toneIdx.get c = (s.toneIdx.get c + 1) % s.params.toneLen :=
  Stereo.get_set_same _ _ _

theorem State.toneStep_get_next : (s.toneStep c).1.toneIdx.get (nextChannel c) = s.toneIdx.get (nextChannel c) :=
  Stereo.get_set_next _ _ _

end

/-- Settles O40: the invariant keeps the index inside the table. -/
theorem toneStepWalksTheTable : Obligations.ToneStepWalksTheTable := by
  intro s c hwf he hb
  exact ⟨respondOutput (s.toneStep c), (s.toneStep c).2, exec_toneStep_unlocked c he hb,
    tone_getElem? (State.wf_params hwf) (State.wf_tone hwf c), rfl, s.toneStep_get_same c, s.toneStep_get_next c, rfl⟩

/-! ## The walk around the table -/

/-- After `n` steps the channel's index is `n` places on, modulo `TONE_LEN`, and nothing else has changed. -/
theorem State.iterate_toneStep {s : State} {c : Channel} (hidx : s.toneIdx.get c < s.params.toneLen) (n : Nat) :
    (fun t : State => (t.toneStep c).1)^[n] s =
      { s with toneIdx := s.toneIdx.set c ((s.toneIdx.get c + n) % s.params.toneLen) } := by
  induction n with
  | zero => rw [Function.iterate_zero_apply, Nat.add_zero, Nat.mod_eq_of_lt hidx, Stereo.set_get]
  | succ n ih =>
    rw [Function.iterate_succ_apply', ih, State.toneStep]
    simp only [Stereo.get_set_same, Stereo.set_set, Nat.mod_add_mod, Nat.add_assoc]

/-- Output `n` is the one of the state that `n` steps lead to. -/
theorem toneAll_getElem? {c : Channel} {m n : Nat} {s : State} (hn : n < m) :
    (toneAll s c m)[n]? = some (((fun t : State => (t.toneStep c).1)^[n] s).toneStep c).2 := by
  induction m generalizing s n with
  | zero => exact absurd hn (Nat.not_lt_zero n)
  | succ m ih =>
    cases n with
    | zero => rfl
    | succ n => exact ih (Nat.lt_of_succ_lt_succ hn)

/-- Settles O41: `n` steps move the index `n` places on, and `TONE_LEN` places on is where it was. -/
theorem tonePlayerIsCircular : Obligations.TonePlayerIsCircular := by
  intro s c m n hwf hn
  have hidx : s.toneIdx.get c < s.params.toneLen := State.wf_tone hwf c
  constructor
  · have hentry : (s.toneIdx.get c + n) % s.params.toneLen < s.params.toneLen := Nat.mod_lt _ (Nat.zero_lt_of_lt hidx)
    rw [toneAll_getElem? hn, State.iterate_toneStep hidx, State.toneStep_output, Stereo.get_set_same,
      tone_getElem? (State.wf_params hwf) hentry]
  · rw [State.iterate_toneStep hidx, Nat.add_mod_right, Nat.mod_eq_of_lt hidx, Stereo.set_get]

end Sys2Proof.Machine
end

section
/-! SUPPORT. The statements about the channel state machine (spec/44_channel.md): CH.ADV toggles it (R171, R173), the
invocations of any run without CH.ADV and reset alternate between the channels, and so share them out evenly (R174). -/

namespace Sys2Proof.Machine

/-! ## CH.ADV (R173) -/

theorem State.advanceOp_eq (s : State) : s.advanceOp = { s with
    chState := nextChannel s.chState
    responses := s.responses ++ [responseWord true false (zext16 (channelBit (nextChannel s.chState)))] } := rfl

/-- Settles O42: the toggle and its answer, for each of the two channel states. -/
theorem chAdvToggles : Obligations.ChAdvToggles := by
  intro s he hb
  rw [exec_chAdv_unlocked he hb, State.advanceOp_eq]
  constructor <;> intro hchannel <;> rw [hchannel] <;> rfl

/-! ## What alternates (R174) -/

@[simp] theorem alternating_nil (p : Params) (c : Channel) : alternating p c [] = [] := rfl

@[simp] theorem alternating_cons (p : Params) (c : Channel) (y : Sample) (ys : List Sample) :
    alternating p c (y :: ys) = invocationEvents p c y ++ alternating p (nextChannel c) ys := rfl

@[simp] theorem channelAfter_zero (c : Channel) : channelAfter c 0 = c := rfl

@[simp] theorem channelAfter_succ (c : Channel) (k : Nat) : channelAfter c (k + 1) = channelAfter (nextChannel c) k :=
  rfl

theorem channelAfter_add (c : Channel) (j k : Nat) : channelAfter c (j + k) = channelAfter (channelAfter c j) k := by
  induction j generalizing c with
  | zero => rw [Nat.zero_add, channelAfter_zero]
  | succ j ih => rw [Nat.succ_add, channelAfter_succ, channelAfter_succ, ih]

/-- Invocations that go on where the alternation stood are one alternation with those before. -/
theorem alternating_append (p : Params) (c : Channel) (xs ys : List Sample) :
    alternating p c (xs ++ ys) = alternating p c xs ++ alternating p (channelAfter c xs.length) ys := by
  induction xs generalizing c with
  | nil => rfl
  | cons x xs ih => simp [ih]

/-- From `s` to `t` only whole invocations were traced, in alternation from the channel state of `s`, and the channel
state toggled once for each (R174). -/
def Alternates (s t : State) : Prop := t.params = s.params ∧
  ∃ ys, t.trace = s.trace ++ alternating s.params s.chState ys ∧ t.chState = channelAfter s.chState ys.length

theorem Alternates.of_frame {s t : State} (hparams : t.params = s.params) (htrace : t.trace = s.trace)
    (hchannel : t.chState = s.chState) : Alternates s t :=
  ⟨hparams, [], by simpa using htrace, hchannel⟩

theorem Alternates.of_invocation {s t : State} {y : Sample} (hparams : t.params = s.params)
    (htrace : t.trace = s.trace ++ invocationEvents s.params s.chState y)
    (hchannel : t.chState = nextChannel s.chState) : Alternates s t :=
  ⟨hparams, [y], by simpa using htrace, hchannel⟩

theorem Alternates.trans {s t u : State} (hst : Alternates s t) (htu : Alternates t u) : Alternates s u := by
  obtain ⟨hp, xs, hxs, hcx⟩ := hst
  obtain ⟨hp', ys, hys, hcy⟩ := htu
  refine ⟨hp'.trans hp, xs ++ ys, ?_, ?_⟩
  · rw [hys, hxs, hp, hcx, alternating_append, List.append_assoc]
  · rw [hcy, hcx, List.length_append, channelAfter_add]

/-! ## Every operation but CH.ADV and SRESET -/

section
variable (s : State) (rxr txr : Bool) (x : Sample)

@[simp] theorem State.serve_chState : (s.serve rxr txr x).chState = nextChannel s.chState := by simp [State.serve]

/-- One read, one write and one clear of the channel the state named at entry (R181, R186). -/
theorem State.serve_trace : (s.serve rxr txr x).trace = s.trace ++ invocationEvents s.params s.chState
    ((s.emit (.read s.params.lineRx s.chState)).process rxr x).2 := by
  simp [State.serve, invocationEvents]

end

theorem OpEffect.alternates {s u : State} {i : Instr} (h : OpEffect s i u) (hadv : i ≠ .chAdv) (hreset : i ≠ .sreset) :
    Alternates s u := by
  cases h with
  | reset => exact absurd rfl hreset
  | advanced => exact absurd rfl hadv
  | served rxr txr x =>
    exact .of_invocation (s.serve_params rxr txr x) (s.serve_trace rxr txr x) (s.serve_chState rxr txr x)
  | _ => apply Alternates.of_frame <;> simp

theorem exec_alternates {i : Instr} {s t : State} (hadv : i ≠ .chAdv) (hreset : i ≠ .sreset)
    (h : exec i s = .next t) : Alternates s t := by
  obtain ⟨u, w, hu, rfl⟩ := exec_next_effect h
  exact hu.alternates hadv hreset

theorem execAll_cons_eq_next {i : Instr} {is : List Instr} {s t : State} :
    execAll (i :: is) s = .next t ↔ ∃ u, exec i s = .next u ∧ execAll is u = .next t := by
  rw [execAll]
  cases exec i s <;> simp

theorem execAll_alternates {is : List Instr} {s t : State} (his : ∀ i ∈ is, i ≠ .chAdv ∧ i ≠ .sreset)
    (h : execAll is s = .next t) : Alternates s t := by
  induction is generalizing s with
  | nil =>
    obtain rfl : s = t := Host.Outcome.next.inj h
    exact .of_frame rfl rfl rfl
  | cons i is ih =>
    obtain ⟨u, hexec, hrest⟩ := execAll_cons_eq_next.1 h
    obtain ⟨⟨hadv, hreset⟩, htail⟩ := List.forall_mem_cons.1 his
    exact (exec_alternates hadv hreset hexec).trans (ih htail hrest)

/-- Settles O51: each operation adds no invocation or the one whose turn it is, and such steps compose. -/
theorem invocationsAlternate : Obligations.InvocationsAlternate := fun _ _ _ his h => (execAll_alternates his h).2

/-! ## The balance of the channels -/

theorem countP_readsFor_invocationEvents_same (p : Params) (c : Channel) (y : Sample) :
    (invocationEvents p c y).countP (readsFor c) = 1 := by
  simp [invocationEvents, readsFor]

theorem countP_readsFor_invocationEvents_next (p : Params) (c : Channel) (y : Sample) :
    (invocationEvents p c y).countP (readsFor (nextChannel c)) = 0 := by
  simp [invocationEvents, readsFor, (nextChannel_ne c).symm]

/-- The channel that comes first has the larger half of the invocations, the other the smaller. -/
theorem countP_readsFor_alternating (p : Params) (c : Channel) (ys : List Sample) :
    (alternating p c ys).countP (readsFor c) = (ys.length + 1) / 2 ∧
    (alternating p c ys).countP (readsFor (nextChannel c)) = ys.length / 2 := by
  induction ys generalizing c with
  | nil => exact ⟨rfl, rfl⟩
  | cons y ys ih =>
    obtain ⟨hnext, hsame⟩ := ih (nextChannel c)
    rw [nextChannel_nextChannel] at hsame
    rw [alternating_cons, List.countP_append, List.countP_append, hnext, hsame,
      countP_readsFor_invocationEvents_same, countP_readsFor_invocationEvents_next, List.length_cons]
    omega

/-- Settles O52: the two halves of a number differ by its parity. -/
theorem alternationBalancesChannels : Obligations.AlternationBalancesChannels := by
  intro p c ys
  obtain ⟨hfirst, hother⟩ := countP_readsFor_alternating p c ys
  cases c <;> dsimp only [nextChannel] at hother ⊢ <;> omega

end Sys2Proof.Machine
end

section
/-! SUPPORT. The statements about the event and the handler (spec/45_handler.md): what EVT does (R183), what RUN does in
an open invocation (R185 to R188) and without one (R190), and which words make the trace grow (R181, R191). -/

namespace Sys2Proof.Machine

/-! ## The event (R183, R235) -/

section
variable {s : State}

theorem exec_evt_masked (he : s.en = false) : exec .evt s = .next (s.respond false 0) := by
  simp [exec, execEvt, he]

theorem exec_evt_overruns (he : s.en = true) (hb : s.busy = true) :
    exec .evt s = .next (s.countOverrun.respond false 0) := by
  simp [exec, execEvt, he, hb]

theorem exec_evt_opens (he : s.en = true) (hb : s.busy = false) :
    exec .evt s = .next (s.acceptEvent.respond true 0) := by
  simp [exec, execEvt, he, hb]

end

/-- The counter stops at 65535 (R33). -/
theorem satInc_eq_ite (v : BitVec 16) : satInc v = if v = 65535 then 65535 else v + 1 :=
  ite_congr rfl id fun _ => rfl

/-- Settles O43: the two conditions that EVT tests leave three cases. -/
theorem eventIsMaskedCountedOrAccepted : Obligations.EventIsMaskedCountedOrAccepted := by
  intro s
  simp only [← satInc_eq_ite]
  exact ⟨exec_evt_masked, exec_evt_overruns, exec_evt_opens⟩

/-! ## RUN without an open invocation (R190) -/

/-- Settles O45: RUN tests `busy`, and so does the step of the handler agent. -/
theorem runWithoutInvocationDoesNothing : Obligations.RunWithoutInvocationDoesNothing := fun _ rxr txr x hb =>
  ⟨exec_run_idle hb rxr txr x, fun _ => agentStep_eq_none_iff.2 (.inr ⟨rfl, hb⟩)⟩

/-! ## RUN in an open invocation (R185 to R188) -/

theorem exec_run_serves {s : State} (hb : s.busy = true) (rxr txr : Bool) (x : Sample) :
    exec (.run rxr txr x) s = .next (s.handlerBody rxr txr x) := by
  simp [exec, execRun, hb]

section
variable (s : State)

/-- Of the fields an invocation writes, each engine writes its own (R184). -/
theorem State.engine_eq (m : Mode) (c : Channel) (x : Sample) : (s.engine m c x).1 = { s with
    fir := if m = .fir then s.fir.set c (firEngine s.params (s.fir.get c) x).1 else s.fir
    dly := if m = .delay then s.dly.set c (dlyEngine s.params (s.dly.get c) x).1 else s.dly
    toneIdx := if m = .tone then s.toneIdx.set c ((s.toneIdx.get c + 1) % s.params.toneLen) else s.toneIdx } := by
  cases m <;> rfl

/-- Write, advance, acknowledge, answer, as one update (R185). -/
theorem State.deliver_eq (txr : Bool) (y : Sample) : s.deliver txr y = { s with
    cntTxdrop := if txr then s.cntTxdrop else satInc s.cntTxdrop
    chState := nextChannel s.chState
    busy := false
    trace := s.trace ++ [.write s.params.lineTx s.chState y, .clear]
    responses := s.responses ++ [responseWord true txr y] } := by
  cases txr <;> simp [State.deliver, State.transportWrite, State.emit, State.countTxdrop, State.chAdvance,
    State.endInvocation, State.respond, State.answer]

end

/-- A count of what was not ready, in the words of R187 and R188. -/
theorem ite_ready_satInc (ready : Bool) (v : BitVec 16) :
    (if ready = true ∨ v = 65535 then v else v + 1) = if ready then v else satInc v := by
  cases ready <;> simp [satInc]

/-- Settles O44: silence when the read was not ready, the engine of the mode when it was, and then `deliver`. -/
theorem runServesTheOpenInvocation : Obligations.RunServesTheOpenInvocation := by
  intro s rxr txr x hb
  simp only [exec_run_serves hb, State.handlerBody_eq_deliver, State.deliver_eq, ite_ready_satInc]
  cases rxr
  case false => simp [State.process, State.emit, State.countRxmiss]
  case true =>
    simp only [State.process, State.engine_eq, State.emit, if_true, true_and]
    cases s.mode <;> simp [State.engine, State.passStep, State.firStep, State.dlyStep, State.toneStep]

/-! ## Passthrough (R192) -/

/-- Settles O46: the event opens the invocation that RUN serves. -/
theorem passthroughHandsTheSampleOn : Obligations.PassthroughHandsTheSampleOn := by
  intro s x he hb hmode
  obtain ⟨-, -, hopens⟩ := eventIsMaskedCountedOrAccepted s
  refine execAll_cons_eq_next.2 ⟨_, hopens he hb, execAll_cons_eq_next.2 ⟨_, ?_, rfl⟩⟩
  rw [runServesTheOpenInvocation _ true true x rfl]
  simp [hmode, hb]

/-! ## The growth of the trace (R181, R186, R191) -/

theorem OpEffect.trace_eq {s u : State} {i : Instr} (h : OpEffect s i u)
    (hno : s.busy = false ∨ ∀ rxr txr x, i ≠ .run rxr txr x) : u.trace = s.trace := by
  cases h with
  | reset => rfl
  | served rxr txr x hb => simp [hb] at hno
  | _ => simp

/-- Settles O50: RUN in an open invocation emits its three events, and every other effect leaves the trace. -/
theorem traceGrowsByWholeInvocations : Obligations.TraceGrowsByWholeInvocations := by
  intro w s t h
  cases hw : decode w with
  | error e =>
    rw [present_of_decode_error hw] at h
    exact .inr ⟨.inr fun _ _ _ => nofun, Host.Outcome.next.inj h ▸ State.setSticky_trace s .illop⟩
  | ok i =>
    rw [present_of_decode_ok hw] at h
    by_cases hserves : s.busy = true ∧ ∃ rxr txr x, i = .run rxr txr x
    · obtain ⟨hb, rxr, txr, x, rfl⟩ := hserves
      obtain rfl := Host.Outcome.next.inj ((exec_run_serves hb rxr txr x).symm.trans h)
      exact .inl ⟨_, hb, ⟨rxr, txr, x, rfl⟩, rfl, s.serve_chState rxr txr x, s.serve_trace rxr txr x⟩
    · have hno : s.busy = false ∨ ∀ rxr txr x, i ≠ .run rxr txr x := by
        simpa only [not_and_or, Bool.not_eq_true, not_exists] using hserves
      obtain ⟨u, r, hu, rfl⟩ := exec_next_effect h
      exact .inr ⟨by simpa using hno, hu.trace_eq hno⟩

end Sys2Proof.Machine
end

section
/-! SUPPORT. The statements about the host operations (spec/46_host.md): NOP and the other words of its opcode (R210),
SRESET (R211), what CFGWR writes and rejects (R212, R213), what CFGRD reads (R215), and unmapped addresses (R216). -/

namespace Sys2Proof

/-! ## The opcode of an accepted word (R71, R78) -/

theorem opcodeField_and (v w : Word) : opcodeField (v &&& w) = opcodeField v &&& opcodeField w :=
  BitVec.extractLsb'_and

/-- The mask of every row covers the opcode. -/
theorem opcodeField_mask : ∀ r ∈ opcodeMap, opcodeField r.mask = BitVec.allOnes 8 := by decide

/-- So a word has the opcode of the row it selects. -/
theorem opcodeField_of_selects {r : OpRow} {w : Word} (hr : r ∈ opcodeMap) (hsel : r.selects w = true) :
    opcodeField w = opcodeField r.pattern := by
  rw [← beq_iff_eq.1 hsel, opcodeField_and, opcodeField_mask r hr, BitVec.and_allOnes]

/-- No other operation shares NOP's opcode. -/
theorem Instr.eq_nop_of_opcode {i : Instr} (h : opcodeField i.row.pattern = 0) : i = .nop := by
  cases i
  case nop => rfl
  all_goals exact absurd h (by simp only [Instr.row]; decide)

theorem eq_zero_of_opcodeField {w : Word} {i : Instr} (h : decode w = .ok i) (hop : opcodeField w = 0) : w = 0 := by
  obtain ⟨hsel, -⟩ := decode_ok h
  obtain rfl := Instr.eq_nop_of_opcode ((opcodeField_of_selects i.row_mem hsel).symm.trans hop)
  exact (encode_of_decode h).symm

namespace Machine

/-! ## NOP (R210) -/

/-- Settles O17: the only word of NOP's opcode that the decoder accepts is 0. -/
theorem nopOnlyAnswers : Obligations.NopOnlyAnswers := by
  refine fun s => ⟨rfl, present_of_decode_ok (by decide) s, fun w hop hw => ?_⟩
  cases hdec : decode w with
  | error e => exact present_of_decode_error hdec s
  | ok i => exact absurd (eq_zero_of_opcodeField hdec hop) hw

/-! ## Illegal operands (R212, R216) -/

theorem exec_of_illegalOperands {s : State} {i : Instr} (h : s.illegalOperands i) :
    exec i s = .next (s.reject .illop) := by
  obtain ⟨t, ht, hexec⟩ := exec_ends i s
  rw [hexec, ht.eq_reject_illop h]

/-- Settles O20: these are the illegal operands of CFGWR. -/
theorem cfgwrRejectsReadOnlyUnmappedReserved : Obligations.CfgwrRejectsReadOnlyUnmappedReserved := fun _ addr data h =>
  exec_of_illegalOperands (i := .cfgwr addr data) h

theorem le_of_addrFits {addr : Nat} (h : addrFits addr = true) : addr ≤ 255 :=
  Nat.le_of_lt_succ (of_decide_eq_true h)

/-- Settles O22: an unmapped address is illegal for both operations, and the decoder gives only addresses that fit. -/
theorem unmappedAddressesRejected : Obligations.UnmappedAddressesRejected := by
  intro s addr data h
  refine ⟨exec_of_illegalOperands (i := .cfgrd addr) h,
    exec_of_illegalOperands (i := .cfgwr addr data) (.inl (by omega)), fun hbig w => ?_⟩
  have hfits : ¬ addrFits addr = true := fun hf => Nat.not_lt.2 (le_of_addrFits hf) hbig
  exact ⟨fun hdec => hfits (wf_of_decode hdec), fun hdec => hfits (wf_of_decode hdec)⟩

/-! ## SRESET (R211, R38, R261) -/

theorem State.resetMachine_buffer (s : State) (buf : BufId) : s.resetMachine.buffer buf = .empty := by
  cases buf <;> rfl

theorem State.resetMachine_toneIdx (s : State) (c : Channel) : s.resetMachine.toneIdx.get c = 0 := by
  cases c <;> rfl

theorem State.resetMachine_transportUnknown (s : State) :
    s.resetMachine.transportUnknown = (s.transportUnknown || s.busy) := rfl

/-- Settles O18: the state after SRESET is `resetMachine` with one answer more. -/
theorem sresetGivesResetValues : Obligations.SresetGivesResetValues := by
  intro s
  refine ⟨s.resetMachine.respond false 0, rfl, rfl, fun buf => ?_, s.resetMachine_toneIdx, rfl, rfl, rfl, rfl, rfl,
    rfl, rfl, rfl, rfl, rfl, rfl, rfl, rfl, fun hb => ?_, fun hb => ?_⟩
  · rw [State.buffer_respond, State.resetMachine_buffer]
    exact ⟨rfl, rfl, Memory.read_nil⟩
  · simp [State.resetMachine_transportUnknown, hb]
  · simp [State.resetMachine_transportUnknown, hb]

/-! ## CFGWR (R213) -/

/-- A write of `CTRL` as one update: the mode and `LOCKED` depend on `EN` before the write. -/
theorem State.writeCtrl_eq (s : State) (data : BitVec 16) : s.writeCtrl data = { s with
    mode := if s.en = true then s.mode else modeOfBits (data.extractLsb' 1 2)
    en := data.getLsbD 0
    locked := s.locked || (s.en && decide (modeOfBits (data.extractLsb' 1 2) ≠ s.mode)) } := by
  by_cases hen : s.en = true
  · by_cases hmode : modeOfBits (data.extractLsb' 1 2) = s.mode <;> simp [State.writeCtrl, State.setSticky, hen, hmode]
  · simp [State.writeCtrl, hen]

theorem exec_cfgwr_ctrl (s : State) {data : BitVec 16} (h : data.extractLsb' 3 13 = 0) :
    exec (.cfgwr 0 data) s = .next ((s.writeCtrl data).respond false 0) := by
  simp [exec, execCfgwr, h]

/-- Settles O19: the mode that `MODE`'s bits name is the one with that code. -/
theorem cfgwrWritesControl : Obligations.CfgwrWritesControl := by
  intro s data m hres hm
  have hmode : modeOfBits (data.extractLsb' 1 2) = m := by rw [← hm, modeOfBits_modeBits]
  rw [exec_cfgwr_ctrl s hres, State.writeCtrl_eq, hmode]
  rfl

/-! ## CFGRD (R214, R215) -/

theorem exec_cfgrd_of_reg {s : State} {addr : Nat} {v : BitVec 16} (h : s.reg addr = some v) :
    exec (.cfgrd addr) s = .next (s.respond false v) := by
  simp only [exec, execCfgrd, h]

theorem toNat_append_bit {n : Nat} (v : BitVec n) (b : BitVec 1) : (v ++ b).toNat = 2 * v.toNat + b.toNat := by
  rw [BitVec.toNat_append, ← Nat.shiftLeft_add_eq_or_of_lt b.isLt, Nat.shiftLeft_eq, Nat.mul_comm]

theorem toNat_zext16 {n : Nat} (hn : n ≤ 16) (v : BitVec n) : (zext16 v).toNat = v.toNat :=
  BitVec.toNat_setWidth_of_le hn

theorem State.ctrlValue_toNat (s : State) : s.ctrlValue.toNat = s.en.toNat + 2 * (modeBits s.mode).toNat := by
  rw [State.ctrlValue, toNat_zext16 (by decide), toNat_append_bit, BitVec.toNat_ofBool, Nat.add_comm]

theorem State.statusValue_toNat (s : State) : s.statusValue.toNat =
    (channelBit s.chState).toNat + 2 * s.busy.toNat + 4 * s.illop.toNat + 8 * s.locked.toNat := by
  rw [State.statusValue, toNat_zext16 (by decide)]
  simp only [toNat_append_bit, BitVec.toNat_ofBool]
  omega

/-- Settles O21: CFGRD answers `reg`, whose two packed values are sums of their bits' weights. -/
theorem cfgrdReadsRegisters : Obligations.CfgrdReadsRegisters := fun s =>
  ⟨⟨s.ctrlValue, exec_cfgrd_of_reg rfl, s.ctrlValue_toNat⟩,
    ⟨s.statusValue, exec_cfgrd_of_reg rfl, s.statusValue_toNat⟩,
    exec_cfgrd_of_reg rfl, exec_cfgrd_of_reg rfl, exec_cfgrd_of_reg rfl⟩

end Machine

end Sys2Proof
end

section
/-! SUPPORT. The statements about exceptions (spec/60_exceptions.md): a machine of a valid tuple never halts (R230), and
of two things that arrive together either may be executed first, which can be seen (R234). -/

namespace Sys2Proof.Machine

/-! ## Taking an arrival (R70, R234) -/

section
variable {s : State} {a b : Arrival} {rest : List Input}

theorem step_of_takeArrival {s' : State} (hvalid : s.params.valid = true) (h : s.takeArrival = some (a, s')) :
    step s = arrive a s' := by
  simp only [step, hvalid, if_true, stepStream, h]

theorem State.takeArrival_one (h : s.input = .one a :: rest) : s.takeArrival = some (a, { s with input := rest }) := by
  simp only [State.takeArrival, h]

theorem State.takeArrival_together (h : s.input = .together a b :: rest) :
    s.takeArrival = some (a, { s with input := .one b :: rest, ordered := s.ordered + 1 }) ∨
    s.takeArrival = some (b, { s with input := .one a :: rest, ordered := s.ordered + 1 }) := by
  cases hfirst : Config.firstListedFirst s.ordered
  case true => exact .inl (by simp [State.takeArrival, h, hfirst])
  case false => exact .inr (by simp [State.takeArrival, h, hfirst])

/-- An arrival that is next in the stream acts on the machine without it. -/
theorem step_one (hvalid : s.params.valid = true) (h : s.input = .one a :: rest) :
    step s = arrive a { s with input := rest } :=
  step_of_takeArrival hvalid (State.takeArrival_one h)

end

/-! ## The SPC never halts (R230) -/

theorem arrive_next (a : Arrival) (s : State) : ∃ t, arrive a s = .next t := by
  cases a with
  | word w => exact present_next w s
  | hardReset => exact ⟨s.resetMachine, rfl⟩

theorem stepStream_next (s : State) : ∃ t, stepStream s = .next t := by
  rw [stepStream]
  cases s.takeArrival with
  | none => exact ⟨s, rfl⟩
  | some taken => exact arrive_next taken.1 taken.2

/-- Settles O12: the step tests the tuple, and every arrival has a next state. -/
theorem neverHalts : Obligations.NeverHalts := by
  refine fun s => ⟨fun hvalid => ?_, fun hinvalid => ?_⟩
  · rw [step, if_pos hvalid]
    exact stepStream_next s
  · rw [step, if_neg (by simp [hinvalid])]

/-! ## Simultaneous arrivals (R234) -/

/-- Settles O8: the one that is taken is next in the serial stream of its order. -/
theorem togetherIsEitherOrder : Obligations.TogetherIsEitherOrder := by
  intro s a b rest hvalid hinput
  refine (State.takeArrival_together hinput).imp (fun h => ?_) (fun h => ?_)
  all_goals
    rw [step_of_takeArrival hvalid h]
    symm
    exact step_one hvalid rfl

theorem execAll_singleton (i : Instr) (s : State) : execAll [i] s = exec i s := by
  rw [execAll]
  cases exec i s <;> rfl

theorem State.statusValue_busy (s : State) : s.statusValue.getLsbD 1 = s.busy := by
  rw [State.statusValue, zext16, BitVec.getLsbD_setWidth, BitVec.getLsbD_append, BitVec.getLsbD_append]
  simp

/-- What CFGRD STATUS answers in bit 1 (R31, R214). -/
theorem exec_cfgrd_status_busy (s : State) :
    ∃ t r, exec (.cfgrd 1) s = .next t ∧ t.responses.getLast? = some r ∧ r.getLsbD 1 = s.busy :=
  ⟨_, _, exec_cfgrd_of_reg rfl, List.getLast?_concat,
    (responseWord_bit true false s.statusValue 1 (by decide)).trans s.statusValue_busy⟩

/-- Settles O9: the event sets `busy`, the disarming write clears `EN` alone, and what follows sees it. -/
theorem orderOfSimultaneousArrivalsIsVisible : Obligations.OrderOfSimultaneousArrivalsIsVisible := by
  intro s he hb
  have hopens := exec_evt_opens he hb
  have hdisarms (u : State) : exec (.cfgwr 0 0) u = .next ((u.writeCtrl 0).respond false 0) :=
    exec_cfgwr_ctrl u (by decide)
  simp only [execAll_cons_eq_next, execAll_singleton]
  refine ⟨?_, ?_, ⟨_, ⟨_, hopens, hdisarms _⟩, ?_, ?_⟩, ⟨_, ⟨_, hdisarms s, exec_evt_masked ?_⟩, ?_, ?_⟩⟩
  · obtain ⟨t, r, hread, hlast, hbit⟩ := exec_cfgrd_status_busy (s.acceptEvent.respond true 0)
    exact ⟨t, r, ⟨_, hopens, hread⟩, hlast, hbit⟩
  · obtain ⟨t, r, hread, hlast, hbit⟩ := exec_cfgrd_status_busy s
    exact ⟨t, r, hread, hlast, hbit.trans hb⟩
  all_goals simp [hb]

end Sys2Proof.Machine
end

section
/-! SUPPORT. The statements about reset and hazards (spec/70_reset_and_hazards.md): the hard reset input acts as SRESET
(R260), and the bound on the coefficients' magnitudes within which no FIR output wraps (R267). -/

namespace Sys2Proof.Machine

/-! ## The hard reset input (R260) -/

/-- Settles O10: both are `resetMachine`, and SRESET gives one answer more. -/
theorem hardResetEqualsSoftReset : Obligations.HardResetEqualsSoftReset := fun s rest hvalid hinput =>
  ⟨({ s with input := rest } : State).resetMachine, step_one hvalid hinput, rfl, rfl⟩

/-! ## The range of the FIR sum (R123, R267) -/

/-- No Sample is above one in magnitude, so a product is at most its other factor, also after the shift rounds down. -/
theorem abs_q15mul_le (a b : Sample) : |q15mul a b| ≤ |a.toInt| := by
  have hb : |b.toInt| ≤ 32768 := abs_le.2 ⟨b.le_toInt, b.toInt_lt.le⟩
  have hprod : |a.toInt * b.toInt| ≤ |a.toInt| * 32768 := by
    rw [abs_mul]
    exact mul_le_mul_of_nonneg_left hb (abs_nonneg _)
  obtain ⟨hlow, hhigh⟩ := abs_le.1 hprod
  rw [q15mul, sar, sext32, sext32, abs_le]
  omega

theorem abs_firAcc_le (p : Params) (b : RingBuffer) (m : Nat) : |firAcc p b m| ≤ coefMagnitude p m := by
  induction m with
  | zero => exact le_rfl
  | succ m ih =>
    calc |firAcc p b (m + 1)| ≤ |firAcc p b m| + |q15mul (tableRead p.coef m) (rbViewN p.nTaps b m)| := abs_add_le _ _
      _ ≤ coefMagnitude p m + |(tableRead p.coef m).toInt| := add_le_add ih (abs_q15mul_le _ _)
      _ = coefMagnitude p (m + 1) := by rw [coefMagnitude, Nat.cast_add, Int.natCast_natAbs, sext32]

theorem firEngine_output (p : Params) (b : RingBuffer) (x : Sample) :
    (firEngine p b x).2 = wrap16 (firAcc p (firEngine p b x).1 p.nTaps) := rfl

/-- Settles O32: the magnitude of the sum is within the bound, and +32768 is the only such value that is no Sample. -/
theorem firDoesNotWrapWithinBound : Obligations.FirDoesNotWrapWithinBound := by
  intro p b x sum y
  have hy : y = wrap16 sum := firEngine_output p b x
  obtain ⟨hlow, hhigh⟩ : -(coefMagnitude p p.nTaps : Int) ≤ sum ∧ sum ≤ coefMagnitude p p.nTaps :=
    abs_le.1 (abs_firAcc_le p _ _)
  rw [hy]
  refine ⟨fun hbound => ?_, fun hbound => toInt_wrap16 ⟨by omega, by omega⟩⟩
  by_cases hcorner : sum = 32768
  · exact .inr ⟨hcorner, by rw [hcorner]; decide⟩
  · exact .inl (toInt_wrap16 ⟨by omega, by omega⟩)

end Sys2Proof.Machine
end
